-- ==== Sys2Proof/Word.lean ====
section
/-! DEFINITION. The word types of the block (spec/00_scope.md R6, R8). -/

namespace Sys2Proof

/-- A register, an immediate or the flags value: an unsigned 8-bit value (R6 `XLEN`, `FLEN`; R8). -/
abbrev Byte := BitVec 8

/-- The 16-bit sum inside ADD, the only wider value of the block (R6 "ALU sum width"; R41). -/
abbrev Sum16 := BitVec 16

/-- An instruction word `instr[23:0]` (R6 `ILEN`; R60). -/
abbrev InstrWord := BitVec 24

end Sys2Proof
end

