-- ==== Sys2Proof/Config.lean ====
section
/-! DEFINITION. The free values: what the spec leaves at `any value` (spec/93_implementation_defined.md section 1).
None has a body, so a claim about the model holds whatever they are. The fixed parameters of R6 are the widths in
Word.lean and the closed types in Syntax/Operand.lean: the spec leaves no other parameter open. -/

namespace Sys2Proof.Config

/-- `rsp_status` after the n-th edge that took no command: unspecified while `rsp_valid` = 0 (R176). Log entry 3. -/
opaque freeRspStatus : Nat → BitVec 2

/-- `rsp_pos` after the n-th edge that took no command: unspecified while `rsp_valid` = 0 (R176). Log entry 3. -/
opaque freeRspPos : Nat → BitVec 2

/-- Contents of register A before the first reset: unspecified (R172). Log entry 5. -/
opaque powerOnA : Byte

/-- Contents of register B before the first reset: unspecified (R172). Log entry 5. -/
opaque powerOnB : Byte

/-- Contents of F, all 8 bits, before the first reset: unspecified (R172). Log entry 5. -/
opaque powerOnFlags : Byte

/-- `rsp_valid` before the first reset: unspecified (R172). Log entry 5. -/
opaque powerOnRspValid : Bool

/-- `rsp_status` before the first reset: unspecified (R172). Log entry 5. -/
opaque powerOnRspStatus : BitVec 2

/-- `rsp_pos` before the first reset: unspecified (R172). Log entry 5. -/
opaque powerOnRspPos : BitVec 2

end Sys2Proof.Config
end

