-- ==== Sys2Proof/Syntax/Operand.lean ====
section
/-! DEFINITION. The names an instruction or a host command can carry: register identifiers, flag positions, operands and
operand positions (spec/10_state.md R20, R24; spec/41_dispatch.md R101, R106). -/

namespace Sys2Proof

/-- A register identifier: "an enumerated, closed set of two values (A, B)" (R20). -/
inductive RegId where
  | a
  | b
deriving DecidableEq, Repr

/-- A flag position, the closed set {Carry, Zero} (R24). -/
inductive FlagPos where
  | carry
  | zero
deriving DecidableEq, Repr

/-- An operand, "a closed two-variant type: `Register(id)` or `Byte(value)`" (R101). -/
inductive Operand where
  | reg (r : RegId)
  | byte (v : Byte)
deriving DecidableEq, Repr

/-- A 1-based position of an operand list that an instruction inspects or an error carries: 1 or 2 (R86, R106). -/
inductive Pos where
  | first
  | second
deriving DecidableEq, Repr

end Sys2Proof
end

