-- ==== Sys2Proof/Syntax.lean ====
section
/-! DEFINITION. The instructions: one constructor per row of spec/opcode_table.json. -/

namespace Sys2Proof

/-- An instruction is an operation and its ordered operand list (spec/30_encoding.md R68 `Instr(op, ops)`). A malformed
list is an instruction too: it has a defined error outcome (R70). -/
inductive Instr where
  /-- LOAD (spec/42_load.md R120, R121). -/
  | load (ops : List Operand)
  /-- ADD, immediate and register-register mode (spec/43_add.md R134 to R136). -/
  | add (ops : List Operand)
deriving DecidableEq, Repr

/-- The operand list of an instruction. -/
def Instr.operands : Instr → List Operand
  | .load ops => ops
  | .add ops => ops

end Sys2Proof
end

