-- ==== Sys2Proof/WellFormed.lean ====
section
/-! DEFINITION. Which instructions have an encoding (spec/30_encoding.md R62, R68). -/

namespace Sys2Proof

/-- "A list of three or more operands has no encoding" (R62); `decode` yields lists of length ≤ 2 (R68). -/
def operandCountOk (ops : List Operand) : Bool :=
  decide (ops.length ≤ 2)

/-- Well-formed: the instruction has an encoding. The kinds and the legal register codes are in the types, and a list of
the wrong kinds is well-formed, since it has a word and an error outcome (R70). -/
def Instr.wf (i : Instr) : Bool :=
  operandCountOk i.operands

end Sys2Proof
end

