-- ==== Sys2Proof/Decode.lean ====
section
/-! DEFINITION. The encoding `I24` (spec/30_encoding.md): fields, decoder, encoder, and the two presentations of a word
(as bytes, and as the opcode table's numbers). -/

namespace Sys2Proof

/-! ### Register codes (R66) -/

/-- "0x00 is A and 0x01 is B" (R66; decision D3). -/
def RegId.code : RegId → Byte
  | .a => 0x00#8
  | .b => 0x01#8

/-- The register a code names; 0x02 to 0xFF are reserved (R66). -/
def regOfCode? (v : Byte) : Option RegId :=
  if v = 0x00#8 then some .a else if v = 0x01#8 then some .b else none

/-! ### Fields of a word (R60) -/

/-- OP = instr[23:22]. -/
def opField (w : InstrWord) : BitVec 2 := w.extractLsb' 22 2
/-- N = instr[21:20]. -/
def countField (w : InstrWord) : BitVec 2 := w.extractLsb' 20 2
/-- K1 = instr[19]. -/
def kind1Field (w : InstrWord) : BitVec 1 := w.extractLsb' 19 1
/-- K2 = instr[18]. -/
def kind2Field (w : InstrWord) : BitVec 1 := w.extractLsb' 18 1
/-- RES = instr[17:16]. -/
def resField (w : InstrWord) : BitVec 2 := w.extractLsb' 16 2
/-- V1 = instr[15:8]. -/
def value1Field (w : InstrWord) : Byte := w.extractLsb' 8 8
/-- V2 = instr[7:0]. -/
def value2Field (w : InstrWord) : Byte := w.extractLsb' 0 8

/-! ### Decode (R68) -/

/-- Why a word is ILLEGAL: the four classes of R69. -/
inductive IllegalEncoding where
  /-- OP = 0b10 or 0b11 (R61). -/
  | reservedOpcode
  /-- N = 0b11 (R62). -/
  | reservedCount
  /-- RES ≠ 0b00 (R64). -/
  | reservedBits
  /-- a supplied register-kind operand with a code outside 0x00, 0x01 (R66). -/
  | reservedRegister
deriving DecidableEq, Repr

/-- The result of decoding: `Illegal | Instr(op, ops)` (R68). -/
inductive Decoded where
  | illegal (why : IllegalEncoding)
  | instr (i : Instr)
deriving DecidableEq, Repr

/-- The instruction an OP value selects: LOAD or ADD; 0b10 and 0b11 are reserved (R61). -/
def instrOfOp? (op : BitVec 2) : Option (List Operand → Instr) :=
  if op = 0b00#2 then some .load else if op = 0b01#2 then some .add else none

/-- One supplied operand from its kind and value fields (R63, R65, R66). -/
def decodeOperand (f : BitVec 1 × Byte) : Option Operand :=
  if f.1 = 1#1 then some (.byte f.2) else (regOfCode? f.2).map Operand.reg

/-- The loop `for i in 1 .. N` of R68 over the supplied fields. -/
def decodeOperands : List (BitVec 1 × Byte) → Option (List Operand)
  | [] => some []
  | f :: fs =>
    match decodeOperand f, decodeOperands fs with
    | some o, some ops => some (o :: ops)
    | _, _ => none

/-- The kind and value fields of the positions 1 .. N; those above N are ignored (R67). -/
def suppliedFields (w : InstrWord) : List (BitVec 1 × Byte) :=
  [(kind1Field w, value1Field w), (kind2Field w, value2Field w)].take (countField w).toNat

/-- `decode` of R68, total on every word, its checks in the order R68 gives them. -/
def decode (w : InstrWord) : Decoded :=
  match instrOfOp? (opField w) with
  | none => .illegal .reservedOpcode
  | some mk =>
    if countField w = 0b11#2 then .illegal .reservedCount
    else if resField w ≠ 0b00#2 then .illegal .reservedBits
    else
      match decodeOperands (suppliedFields w) with
      | none => .illegal .reservedRegister
      | some ops => .instr (mk ops)

/-! ### Encode (R60, R66, R71, R72) -/

/-- The word with the given fields, bit 23 first (R60, R71). -/
def packWord (op n : BitVec 2) (k1 k2 : BitVec 1) (res : BitVec 2) (v1 v2 : Byte) : InstrWord :=
  op ++ n ++ k1 ++ k2 ++ res ++ v1 ++ v2

/-- OP of an instruction (R61). -/
def Instr.op : Instr → BitVec 2
  | .load _ => 0b00#2
  | .add _ => 0b01#2

/-- Ki of an operand (R63); an absent operand's field assembles to 0 (R72). -/
def kindBit : Option Operand → BitVec 1
  | some (.byte _) => 1#1
  | some (.reg _) => 0#1
  | none => 0#1

/-- Vi of an operand (R65, R66); an absent operand's field assembles to 0 (R72). -/
def valueBits : Option Operand → Byte
  | some (.byte v) => v
  | some (.reg r) => r.code
  | none => 0#8

/-- The word of an instruction. A list longer than two has no encoding (R62): of such an ill-formed instruction the first
two operands are encoded (log entry 8). -/
def encode (i : Instr) : InstrWord :=
  packWord i.op (BitVec.ofNat 2 (min i.operands.length 2)) (kindBit i.operands[0]?) (kindBit i.operands[1]?) 0b00#2
    (valueBits i.operands[0]?) (valueBits i.operands[1]?)

/-! ### A word as bytes (R41; decision D19) -/

/-- "The most significant byte comes first, as `instr[23:16]`, `instr[15:8]`, `instr[7:0]`" (R41). -/
def bytesOfWord (w : InstrWord) : List Byte :=
  [w.extractLsb' 16 8, w.extractLsb' 8 8, w.extractLsb' 0 8]

/-- The word that three bytes spell, most significant byte first (R41). -/
def wordOfBytes (b2 b1 b0 : Byte) : InstrWord :=
  b2 ++ b1 ++ b0

/-- Decode the first word of a byte sequence and give the rest; `none` where fewer than three bytes are left, since "a
decoder always takes exactly 24 bits" (R60). -/
def decodeBytes : List Byte → Option (Decoded × List Byte)
  | b2 :: b1 :: b0 :: rest => some (decode (wordOfBytes b2 b1 b0), rest)
  | _ => none

/-! ### The opcode table's numbers -/

/-- The instruction the decoder reads from the word whose bits are `w`, numbered as spec/opcode_table.json numbers them
(bit 0 the least significant bit of the one 24-bit word); `none` where the decoder answers ILLEGAL or `w` has a bit
above the `nbits` given or above the word. Log entry 9. -/
def decodeTableWord (nbits w : Nat) : Option Instr :=
  if w < 2 ^ min nbits 24 then
    match decode (BitVec.ofNat 24 w) with
    | .illegal _ => none
    | .instr i => some i
  else none

end Sys2Proof
end

