-- ==== Sys2Proof/Machine/Port.lean ====
section
/-! DEFINITION. The host port (spec/40_state_access.md): the values driven on its inputs at one rising edge, the commands
they stand for, the responses and their codes, the outputs. -/

namespace Sys2Proof.Machine

/-- The inputs of the block at one rising edge of `clk` (R91). -/
structure PortIn where
  /-- `rst`: synchronous reset, active high (R170). -/
  rst : Bool
  /-- `cmd_valid`: a command is presented this cycle. -/
  cmdValid : Bool
  /-- `cmd_op`: 0b00 EXEC, 0b01 WRITE_REG, 0b10 WRITE_FLAG, 0b11 RESET. -/
  cmdOp : BitVec 2
  /-- `instr`: the instruction word for EXEC. -/
  instr : InstrWord
  /-- `wr_reg_id`: 0 = A, 1 = B. -/
  wrRegId : BitVec 1
  /-- `wr_data`: the value for WRITE_REG. -/
  wrData : Byte
  /-- `wr_flag_pos`: 0 = Carry, 1 = Zero. -/
  wrFlagPos : BitVec 1
  /-- `wr_flag_val`: the value for WRITE_FLAG. -/
  wrFlagVal : Bool
deriving DecidableEq, Repr

/-- The outputs of the block (R91). -/
structure PortOut where
  /-- `reg_a` = x[A]. -/
  regA : Byte
  /-- `reg_b` = x[B]. -/
  regB : Byte
  /-- `flags` = F. -/
  flags : Byte
  /-- `rsp_valid`. -/
  rspValid : Bool
  /-- `rsp_status`. -/
  rspStatus : BitVec 2
  /-- `rsp_pos`. -/
  rspPos : BitVec 2
deriving DecidableEq, Repr

/-- `Command` of R86. -/
inductive Command where
  | exec (w : InstrWord)
  | writeReg (r : RegId) (v : Byte)
  | writeFlag (p : FlagPos) (b : Bool)
  | reset
deriving DecidableEq, Repr

/-- `Response` of R86. -/
inductive Response where
  | ok
  | missing (p : Pos)
  | mismatched (p : Pos)
  | illegal
deriving DecidableEq, Repr

/-- The two ways an instruction can fail, each with a position (R104). -/
inductive InstrError where
  | missing (p : Pos)
  | mismatched (p : Pos)
deriving DecidableEq, Repr

/-- The response that reports an instruction error (R104). -/
def InstrError.response : InstrError → Response
  | .missing p => .missing p
  | .mismatched p => .mismatched p

/-- `rsp_pos` of a position: 0b01 is position 1, 0b10 position 2 (R87). -/
def Pos.code : Pos → BitVec 2
  | .first => 0b01#2
  | .second => 0b10#2

/-- `rsp_status` of a response (R87). -/
def Response.status : Response → BitVec 2
  | .ok => 0b00#2
  | .missing _ => 0b01#2
  | .mismatched _ => 0b10#2
  | .illegal => 0b11#2

/-- `rsp_pos` of a response (R87). -/
def Response.pos : Response → BitVec 2
  | .ok => 0b00#2
  | .missing p => Pos.code p
  | .mismatched p => Pos.code p
  | .illegal => 0b00#2

/-- The response a pair (rsp_status, rsp_pos) stands for; no other pair is ever driven (R87). -/
def responseOfCode? (status pos : BitVec 2) : Option Response :=
  [Response.ok, .missing .first, .missing .second, .mismatched .first, .mismatched .second, .illegal].find?
    fun r => r.status == status && r.pos == pos

/-- The fixed message of an error, which the host recovers from (rsp_status, rsp_pos) (R88). OK and ILLEGAL have none
(R151). -/
def errorMessage? (status pos : BitVec 2) : Option String :=
  match responseOfCode? status pos with
  | some (.missing .first) => some "Missing register"
  | some (.mismatched .first) => some "Argument is not a register"
  | some (.missing .second) => some "Missing value"
  | some (.mismatched .second) => some "Argument is not a byte"
  | _ => none

/-- The register `wr_reg_id` names (R91; the codes of R66). -/
def regOfBit (b : BitVec 1) : RegId :=
  if b = 0#1 then .a else .b

/-- The flag `wr_flag_pos` names (R91). -/
def flagOfBit (b : BitVec 1) : FlagPos :=
  if b = 0#1 then .carry else .zero

/-- The command a port input presents: all four codes of `cmd_op` are commands, and the inputs a command does not use are
ignored (R91). -/
def PortIn.command (p : PortIn) : Command :=
  if p.cmdOp = 0b00#2 then .exec p.instr
  else if p.cmdOp = 0b01#2 then .writeReg (regOfBit p.wrRegId) p.wrData
  else if p.cmdOp = 0b10#2 then .writeFlag (flagOfBit p.wrFlagPos) p.wrFlagVal
  else .reset

/-- Inputs of a cycle in which the host sends nothing. -/
def PortIn.idle : PortIn :=
  { rst := false, cmdValid := false, cmdOp := 0#2, instr := 0#24, wrRegId := 0#1, wrData := 0#8, wrFlagPos := 0#1,
    wrFlagVal := false }

/-- Inputs of a cycle with `rst` = 1. -/
def PortIn.resetPin : PortIn := { PortIn.idle with rst := true }

/-- Inputs by which the host presents a command (R91). -/
def Command.drive : Command → PortIn
  | .exec w => { PortIn.idle with cmdValid := true, cmdOp := 0b00#2, instr := w }
  | .writeReg r v =>
    { PortIn.idle with cmdValid := true, cmdOp := 0b01#2, wrRegId := if r = .a then 0#1 else 1#1, wrData := v }
  | .writeFlag p b =>
    { PortIn.idle with cmdValid := true, cmdOp := 0b10#2, wrFlagPos := if p = .carry then 0#1 else 1#1, wrFlagVal := b }
  | .reset => { PortIn.idle with cmdValid := true, cmdOp := 0b11#2 }

end Sys2Proof.Machine
end

