-- ==== Sys2Proof/Machine/State.lean ====
section
/-! DEFINITION. The state of the machine, its reset state and the reasons a step could stop. -/

namespace Sys2Proof.Machine

/-- Everything the spec gives the block (spec/10_state.md R20, R24, R32, R34), the input queue by which the host drives it
and the counter that indexes the free values. -/
structure State where
  /-- x[A] (R20). -/
  regA : Byte
  /-- x[B] (R20). -/
  regB : Byte
  /-- F: C = F[0], Z = F[1], F[7:2] read 0 (R24, R25). -/
  flags : Byte
  /-- `rsp_valid` of the response register (R32, R87). -/
  rspValid : Bool
  /-- `rsp_status` of the response register (R32, R87). -/
  rspStatus : BitVec 2
  /-- `rsp_pos` of the response register (R32, R87). -/
  rspPos : BitVec 2
  /-- The model's own field, DESIGN CHOICE (log entry 1): what the host drives on the input port at the coming rising edges,
  the next edge first; after the last entry the host sends nothing. -/
  inputs : List PortIn
  /-- The model's own field, DESIGN CHOICE (log entry 3): how many free response values have been taken. -/
  freeCount : Nat
deriving DecidableEq, Repr

/-- Why a step would fault. It has no constructor: the block raises no fault and no command is stuck (R150, R165). Every
error of an instruction or a word is a response, that is, a next state (log entry 7). -/
inductive Fault where
deriving DecidableEq, Repr

/-- Why a step would be refused. -/
inductive Refusal where
  /-- Raised by an arm of `exec` whose instruction has no meaning in the model; no arm raises it (safe). -/
  | notModelled (mnemonic : String)
deriving DecidableEq, Repr

/-- The outcome of a step, an instruction or a command. -/
abbrev StepResult := Host.Outcome State Fault Refusal

/-- The machine right after reset: every field of the hardware 0 (R34, R170). Nothing is driven on the port yet and no free
value has been taken, DESIGN CHOICE (log entries 1, 3). -/
def State.reset : State :=
  { regA := 0x00#8, regB := 0x00#8, flags := 0x00#8, rspValid := false, rspStatus := 0b00#2, rspPos := 0b00#2,
    inputs := [], freeCount := 0 }

/-- The machine before its first reset, with the host driving `inputs`: every field of the hardware is unspecified (R172).
Log entry 5. -/
def State.powerOn (inputs : List PortIn) : State :=
  { regA := Config.powerOnA, regB := Config.powerOnB, flags := Config.powerOnFlags, rspValid := Config.powerOnRspValid,
    rspStatus := Config.powerOnRspStatus, rspPos := Config.powerOnRspPos, inputs := inputs, freeCount := 0 }

end Sys2Proof.Machine
end

