-- ==== Sys2Proof/Machine/Flags.lean ====
section
/-! DEFINITION. The `alu_and_flags` logic and the flag bits (spec/43_add.md R130 to R133; spec/10_state.md R24, R28). -/

namespace Sys2Proof.Machine

/-- The bit number of a flag: "Carry = bit 0, Zero = bit 1" (R24). -/
def flagBit : FlagPos → Nat
  | .carry => 0
  | .zero => 1

/-- The mask of a flag, `1 << p` (R7, R24). PRESUMED, as the spec marks it (log entry 11). -/
def flagMask (p : FlagPos) : Byte := 1#8 <<< flagBit p

/-- A boolean as 1 when true and 0 when false (R28). -/
def bitByte (b : Bool) : Byte := if b then 1#8 else 0#8

/-- `F[p] <- b`: clear the target bit by its mask, then OR in the new bit (R28). -/
def setFlagBit (f : Byte) (p : FlagPos) (b : Bool) : Byte :=
  (f &&& ~~~flagMask p) ||| (bitByte b <<< flagBit p)

/-- Bit p of F (R81). -/
def getFlagBit (f : Byte) (p : FlagPos) : Bool :=
  f.getLsbD (flagBit p)

/-- `zext_16` (R8). -/
def zext16 (v : Byte) : Sum16 := v.setWidth 16

/-- The outputs of `alu_and_flags` (R130). -/
structure AluOut where
  /-- the truncated result. -/
  sum8 : Byte
  /-- the carry. -/
  c : Bool
  /-- the zero indication. -/
  z : Bool
deriving DecidableEq, Repr

/-- The ALU function (R131): Carry is "(untruncated 16-bit sum > 0xFF)", Zero "(truncated 8-bit result == 0)". -/
def alu (a b : Byte) : AluOut :=
  let sum16 := zext16 a + zext16 b
  let sum8 := sum16.extractLsb' 0 8
  { sum8 := sum8, c := decide (sum16 > 0x00FF#16), z := decide (sum8 = 0x00#8) }

end Sys2Proof.Machine
end

