-- ==== Sys2Proof/Machine/Ops.lean ====
section
/-! DEFINITION. The named operations on the state that instructions, host commands and clock edges share. The block has no
memory (spec/20_memory.md R40), so they are over registers, flags and the response register. -/

namespace Sys2Proof.Machine

/-! ### Registers and flags (spec/10_state.md) -/

/-- `x[r]`: pure, and never fails (R22, R80). -/
def State.readReg (s : State) : RegId → Byte
  | .a => s.regA
  | .b => s.regB

/-- `x[r] <- v`: overwrites unconditionally, and changes neither the other register nor the flags (R23). -/
def State.writeReg (s : State) (r : RegId) (v : Byte) : State :=
  match r with
  | .a => { s with regA := v }
  | .b => { s with regB := v }

/-- `flag(position)` (R81). -/
def State.flag (s : State) (p : FlagPos) : Bool :=
  getFlagBit s.flags p

/-- `F[p] <- b`: exactly that bit (R28). -/
def State.writeFlag (s : State) (p : FlagPos) (b : Bool) : State :=
  { s with flags := setFlagBit s.flags p b }

/-- The outputs of the block, continuous and without side effect (R80, R81, R91). -/
def State.outputs (s : State) : PortOut :=
  { regA := s.regA, regB := s.regB, flags := s.flags, rspValid := s.rspValid, rspStatus := s.rspStatus,
    rspPos := s.rspPos }

/-! ### Ending a command (spec/00_scope.md R9; spec/40_state_access.md R87) -/

/-- The response is registered at the command's edge, with `rsp_valid` = 1 (R87, R176). -/
def State.respond (s : State) (r : Response) : State :=
  { s with rspValid := true, rspStatus := r.status, rspPos := r.pos }

/-- `return OK`: end the command with the OK response, after its state writes (R9). -/
def returnOk (s : State) : StepResult :=
  .next (s.respond .ok)

/-- `raise MissingArgument` and `raise MismatchedArgument`: end the command with the error response; no register and no flag
is written (R9, R102, R152). This is all that an error does: no trap, no vector, no mode (R150, R156). -/
def raise (e : InstrError) (s : State) : StepResult :=
  .next (s.respond e.response)

/-- `raise IllegalInstruction`: end the command with the ILLEGAL response; nothing is written (R9, R153). -/
def raiseIllegal (s : State) : StepResult :=
  .next (s.respond .illegal)

/-! ### The ALU on the register file (spec/43_add.md) -/

/-- `x[r] <- sum8; F[0] <- c; F[1] <- z` with the ALU's inputs x[r] and `b`, all read before any write (R108, R132). -/
def State.addInto (s : State) (r : RegId) (b : Byte) : State :=
  let out := alu (s.readReg r) b
  ((s.writeReg r out.sum8).writeFlag .carry out.c).writeFlag .zero out.z

/-! ### Reset and edges without a command (spec/70_reset_and_hazards.md) -/

/-- x[A], x[B] and all 8 bits of F become 0 (R84, R170). -/
def State.clearCore (s : State) : State :=
  { s with regA := 0x00#8, regB := 0x00#8, flags := 0x00#8 }

/-- A rising edge with `rst` = 1 (R170, R171): x, F and the response register are cleared and no response is given. The
host's later inputs are the host's and stay (DEDUCED, log entry 6). -/
def State.resetEdge (s : State) : State :=
  { s.clearCore with rspValid := false, rspStatus := 0b00#2, rspPos := 0b00#2 }

/-- A rising edge with no command: x and F hold, `rsp_valid` becomes 0, and `rsp_status`, `rsp_pos` are unspecified (R176),
so they take the next free values (log entry 3). -/
def State.idleEdge (s : State) : State :=
  { s with rspValid := false, rspStatus := Config.freeRspStatus s.freeCount, rspPos := Config.freeRspPos s.freeCount,
           freeCount := s.freeCount + 1 }

end Sys2Proof.Machine
end

