-- ==== Sys2Proof/Machine/Operands.lean ====
section
/-! DEFINITION. The operand model: the positions an instruction inspects and the shared check of position 1
(spec/41_dispatch.md R101, R105, R106). -/

namespace Sys2Proof.Machine

/-- `operand(i)`: the entry at a position, or absent (R9). Nothing beyond position 2 is inspected (R106). -/
def operandAt (ops : List Operand) : Pos → Option Operand
  | .first => ops[0]?
  | .second => ops[1]?

/-- "First operand must be a register", shared by LOAD and ADD (R105). -/
def requireRegister1 (ops : List Operand) : Except InstrError RegId :=
  match operandAt ops .first with
  | none => .error (.missing .first)
  | some (.reg r) => .ok r
  | some (.byte _) => .error (.mismatched .first)

end Sys2Proof.Machine
end

