-- ==== Sys2Proof/Machine/Add.lean ====
section
/-! DEFINITION. ADD (spec/43_add.md). -/

namespace Sys2Proof.Machine

/-- `Add.execute(state, ops)` (R136): position 1 a register, position 2 an immediate byte (R134) or a register (R135). -/
def execAdd (ops : List Operand) (s : State) : StepResult :=
  match requireRegister1 ops with
  | .error e => raise e s
  | .ok r =>
    match operandAt ops .second with
    | none => raise (.missing .second) s
    | some (.byte imm) => returnOk (s.addInto r imm)
    | some (.reg src) => returnOk (s.addInto r (s.readReg src))

end Sys2Proof.Machine
end

