-- ==== Sys2Proof/Machine/Load.lean ====
section
/-! DEFINITION. LOAD (spec/42_load.md). -/

namespace Sys2Proof.Machine

/-- `Load.execute(state, ops)` (R121): position 1 a register, position 2 a byte, which x[r] takes; no flag changes (R120). -/
def execLoad (ops : List Operand) (s : State) : StepResult :=
  match requireRegister1 ops with
  | .error e => raise e s
  | .ok r =>
    match operandAt ops .second with
    | none => raise (.missing .second) s
    | some (.byte imm) => returnOk (s.writeReg r imm)
    | some (.reg _) => raise (.mismatched .second) s

end Sys2Proof.Machine
end

