-- ==== Sys2Proof/Machine/Dispatch.lean ====
section
/-! DEFINITION. `op.execute(state, ops)`: one arm per instruction (spec/41_dispatch.md R100). -/

namespace Sys2Proof.Machine

def exec (i : Instr) (s : State) : Host.Outcome State Fault Refusal :=
  match i with
  | .load ops => Sys2Proof.Machine.execLoad ops s
  | .add ops => Sys2Proof.Machine.execAdd ops s

end Sys2Proof.Machine
end

