-- ==== Sys2Proof/Machine/HostPort.lean ====
section
/-! DEFINITION. What the block does with one command and at one rising edge (spec/40_state_access.md R82 to R85;
spec/70_reset_and_hazards.md R170, R171, R176). -/

namespace Sys2Proof.Machine

/-- EXEC(w): decode first, then run the instruction (R85); an ILLEGAL word writes nothing (R153). -/
def execWord (w : InstrWord) (s : State) : StepResult :=
  match decode w with
  | .illegal _ => raiseIllegal s
  | .instr i => exec i s

/-- One accepted command: EXEC (R85), WRITE_REG (R82), WRITE_FLAG (R83), RESET (R84). -/
def runCommand (c : Command) (s : State) : StepResult :=
  match c with
  | .exec w => execWord w s
  | .writeReg r v => returnOk (s.writeReg r v)
  | .writeFlag p b => returnOk (s.writeFlag p b)
  | .reset => returnOk s.clearCore

/-- One rising edge of `clk`: `rst` has priority and drops the command of its cycle (R171); otherwise the presented command
is accepted, if there is one (R176). -/
def clockEdge (p : PortIn) (s : State) : StepResult :=
  if p.rst then .next s.resetEdge
  else if p.cmdValid then runCommand p.command s
  else .next s.idleEdge

/-- What the host drives at the next edge: the head of its queue, or nothing at all (log entry 1). -/
def State.nextInput (s : State) : PortIn :=
  s.inputs.headD PortIn.idle

/-- The state in which that edge runs: the input taken off the host's queue. -/
def State.takeInput (s : State) : State :=
  { s with inputs := s.inputs.tail }

/-- The EXEC command of the word `w` presented at the next edge, before anything the host already had to send (log
entry 2). -/
def State.presentExec (s : State) (w : InstrWord) : State :=
  { s with inputs := (Command.exec w).drive :: s.inputs }

/-- The word of an instruction given by its low `nbits` bits, the bits above them 0. -/
def wordOfTable (nbits w : Nat) : InstrWord :=
  BitVec.ofNat 24 (w % 2 ^ nbits)

end Sys2Proof.Machine
end

