-- ==== Sys2Proof/Machine/Step.lean ====
section
/-! DEFINITION. One step: one rising edge of `clk` with what the host drives at it (spec/00_scope.md R10;
spec/70_reset_and_hazards.md R176). -/

namespace Sys2Proof.Machine

/-- One rising edge of `clk`. -/
def step (s : State) : Host.Outcome State Fault Refusal :=
  clockEdge s.nextInput s.takeInput

/-- The instruction word `w` placed where the next step takes its instruction from: EXEC of it on the command port, the only
way an instruction reaches the block (R85). Log entry 2. -/
def State.withFetchWord (s : State) (nbits w : Nat) : State :=
  s.presentExec (wordOfTable nbits w)

end Sys2Proof.Machine
end

