-- ==== Sys2Proof/Machine/Assembler.lean ====
section
/-! DEFINITION. Assembly text (spec/30_encoding.md R72, R73), as a list of characters: the assembler, which refuses what
R72 says it refuses, and a printer. There are no pseudo-instructions (R74). The lexical details R72 leaves open are in log
entry 10. -/

namespace Sys2Proof.Machine

/-- Remove the blanks at both ends. -/
def trimBlanks (cs : List Char) : List Char :=
  ((cs.dropWhile (· == ' ')).reverse.dropWhile (· == ' ')).reverse

/-- The pieces between commas; a text without a comma is one piece. -/
def splitCommas : List Char → List (List Char)
  | [] => [[]]
  | c :: cs =>
    if c = ',' then [] :: splitCommas cs
    else
      match splitCommas cs with
      | [] => [[c]]
      | p :: ps => (c :: p) :: ps

/-- The value of a digit in base 10 or 16. -/
def digitValue? (base : Nat) (c : Char) : Option Nat :=
  let n := c.toNat
  let v := if 48 ≤ n && n ≤ 57 then n - 48 else if 65 ≤ n && n ≤ 70 then n - 55 else if 97 ≤ n && n ≤ 102 then n - 87 else base
  if v < base then some v else none

/-- The number a digit sequence spells after the digits already read, `acc`. -/
def readDigits (base : Nat) : List Char → Nat → Option Nat
  | [], acc => some acc
  | c :: cs, acc => (digitValue? base c).bind fun d => readDigits base cs (acc * base + d)

/-- `number`: decimal 0..255, or 0x00..0xFF; a number outside 0..255 is refused (R72). -/
def readNumber (cs : List Char) : Option Byte :=
  let n :=
    match cs with
    | [] => none
    | ['0', 'x'] => none
    | '0' :: 'x' :: ds => readDigits 16 ds 0
    | ds => readDigits 10 ds 0
  n.bind fun v => if v ≤ 255 then some (BitVec.ofNat 8 v) else none

/-- `operand := register | immediate` (R72). -/
def readOperand (cs : List Char) : Option Operand :=
  match trimBlanks cs with
  | ['A'] => some (.reg .a)
  | ['B'] => some (.reg .b)
  | '#' :: ds => (readNumber ds).map Operand.byte
  | _ => none

/-- All operands of a line, or none where one of them is not an operand. -/
def readOperands : List (List Char) → Option (List Operand)
  | [] => some []
  | p :: ps =>
    match readOperand p, readOperands ps with
    | some o, some os => some (o :: os)
    | _, _ => none

/-- `MNEMONIC [ operand [ "," operand ] ]`; an unknown mnemonic and more than two operands are refused (R72). -/
def readInstr (text : List Char) : Option Instr :=
  let line := trimBlanks text
  let mnemonic := line.takeWhile (· != ' ')
  let rest := trimBlanks (line.dropWhile (· != ' '))
  let ops := if rest = [] then some [] else readOperands (splitCommas rest)
  let i :=
    if mnemonic = ['L', 'O', 'A', 'D'] then ops.map Instr.load
    else if mnemonic = ['A', 'D', 'D'] then ops.map Instr.add
    else none
  i.bind fun i => if i.wf then some i else none

/-- The word a line of assembly assembles to, or none where the assembler refuses it (R72). -/
def assemble (text : List Char) : Option InstrWord :=
  (readInstr text).map encode

/-- A hexadecimal digit. -/
def hexDigit (n : Nat) : Char :=
  if n < 10 then Char.ofNat (48 + n) else Char.ofNat (55 + n)

/-- An operand in the syntax of R72, an immediate as two hexadecimal digits. -/
def printOperand : Operand → List Char
  | .reg .a => ['A']
  | .reg .b => ['B']
  | .byte v => ['#', '0', 'x', hexDigit (v.toNat / 16), hexDigit (v.toNat % 16)]

/-- Operands separated by commas. -/
def printOperands : List Operand → List Char
  | [] => []
  | [o] => printOperand o
  | o :: os => printOperand o ++ ',' :: ' ' :: printOperands os

/-- An instruction in the syntax of R72. -/
def printInstr (i : Instr) : List Char :=
  let mnemonic :=
    match i with
    | .load _ => ['L', 'O', 'A', 'D']
    | .add _ => ['A', 'D', 'D']
  if i.operands = [] then mnemonic else mnemonic ++ ' ' :: printOperands i.operands

end Sys2Proof.Machine
end

