-- ==== Sys2Proof/Machine/SubBlocks.lean ====
section
/-! DEFINITION. The block as its four sub-blocks (spec/00_scope.md R11; spec/41_dispatch.md R110; spec/43_add.md R130) and
the transactional function `step : State × Command -> State × Response` built from them (R10, R86). It is written from
the tables of R70, R87 and R151, on the bits of the word, and shares no code with the decoder's operand lists and the
meanings of the instructions: that the two agree is a claim. -/

namespace Sys2Proof.Machine

/-- The state of the transactional model: registers and flags, no response register (R10, R32). -/
structure Arch where
  /-- x[A]. -/
  a : Byte
  /-- x[B]. -/
  b : Byte
  /-- F. -/
  f : Byte
deriving DecidableEq, Repr

/-- The registers and flags of the machine. -/
def State.arch (s : State) : Arch :=
  { a := s.regA, b := s.regB, f := s.flags }

/-- The all-zero baseline (R34). -/
def Arch.zero : Arch := { a := 0#8, b := 0#8, f := 0#8 }

/-- Read port of `register_file`. -/
def Arch.read (m : Arch) (r : RegId) : Byte :=
  if r = .a then m.a else m.b

/-- The outputs of `instruction_dispatch` (R110). -/
structure DispatchOut where
  /-- the response. -/
  response : Response
  /-- `rf_we`: register write enable. -/
  rfWe : Bool
  /-- `rf_wa`: register write index. -/
  rfWa : RegId
  /-- `rf_wd`: register write data. -/
  rfWd : Byte
  /-- `fl_we`: writes C and Z together. -/
  flWe : Bool
  /-- `fl_c`. -/
  flC : Bool
  /-- `fl_z`. -/
  flZ : Bool
  /-- `alu_a` = x[dest]. -/
  aluA : Byte
  /-- `alu_b`: x[src] or the immediate. -/
  aluB : Byte
deriving DecidableEq, Repr

/-- A register-kind operand field with a reserved code (R66). -/
def reservedRegisterField (k : BitVec 1) (v : Byte) : Bool :=
  k == 0#1 && (v != 0x00#8 && v != 0x01#8)

/-- A word decode rejects, by the rows of R69. -/
def illegalWord (w : InstrWord) : Bool :=
  opField w == 0b10#2 || opField w == 0b11#2 || countField w == 0b11#2 || resField w != 0b00#2
    || (countField w != 0b00#2 && reservedRegisterField (kind1Field w) (value1Field w))
    || (countField w == 0b10#2 && reservedRegisterField (kind2Field w) (value2Field w))

/-- The response to EXEC(w), by the causes of R151 in the order of R155. -/
def responseToWord (w : InstrWord) : Response :=
  if illegalWord w then .illegal
  else if countField w = 0b00#2 then .missing .first
  else if kind1Field w = 1#1 then .mismatched .first
  else if countField w = 0b01#2 then .missing .second
  else if opField w = 0b00#2 && kind2Field w == 0#1 then .mismatched .second
  else .ok

/-- The register a legal value field names (R66). Of a reserved code nothing is asked: no write is enabled then (log
entry 12). -/
def regOfValueField (v : Byte) : RegId :=
  if v = 0x00#8 then .a else .b

/-- `instruction_dispatch` on a word and the current registers (R110). -/
def instructionDispatch (w : InstrWord) (m : Arch) : DispatchOut :=
  let response := responseToWord w
  let dest := regOfValueField (value1Field w)
  let aluA := m.read dest
  let aluB := if kind2Field w = 1#1 then value2Field w else m.read (regOfValueField (value2Field w))
  let out := alu aluA aluB
  let isAdd := opField w == 0b01#2
  { response := response
    rfWe := response == .ok
    rfWa := dest
    rfWd := if isAdd then out.sum8 else value2Field w
    flWe := response == .ok && isAdd
    flC := out.c
    flZ := out.z
    aluA := aluA
    aluB := aluB }

/-- `register_file` and `flags_register` at an edge, from the write enables; `F' = (F & 0xFC) | (z << 1) | c` (R132). -/
def Arch.commit (m : Arch) (d : DispatchOut) : Arch :=
  { a := if d.rfWe && d.rfWa == .a then d.rfWd else m.a
    b := if d.rfWe && d.rfWa == .b then d.rfWd else m.b
    f := if d.flWe then (m.f &&& 0xFC#8) ||| (bitByte d.flZ <<< 1) ||| bitByte d.flC else m.f }

/-- The function `step : State × Command -> State × Response` of R86. -/
def transact (c : Command) (m : Arch) : Arch × Response :=
  match c with
  | .exec w => (m.commit (instructionDispatch w m), (instructionDispatch w m).response)
  | .writeReg .a v => ({ m with a := v }, .ok)
  | .writeReg .b v => ({ m with b := v }, .ok)
  | .writeFlag .carry b => ({ m with f := (m.f &&& 0xFE#8) ||| bitByte b }, .ok)
  | .writeFlag .zero b => ({ m with f := (m.f &&& 0xFD#8) ||| (bitByte b <<< 1) }, .ok)
  | .reset => (Arch.zero, .ok)

/-- One rising edge on the transactional state: `rst` clears it and answers nothing, a command is transacted, and without
a command nothing changes (R171, R176). -/
def transactEdge (p : PortIn) (m : Arch) : Arch × Option Response :=
  if p.rst then (Arch.zero, none)
  else if p.cmdValid then ((transact p.command m).1, some (transact p.command m).2)
  else (m, none)

/-- A run: its end state and, edge by edge, its responses (spec/92_eei_decisions.md D21). -/
def transactRun : List PortIn → Arch → Arch × List (Option Response)
  | [], m => (m, [])
  | p :: ps, m =>
    let here := transactEdge p m
    let later := transactRun ps here.1
    (later.1, here.2 :: later.2)

end Sys2Proof.Machine
end

