-- ==== Sys2Proof/Safety.lean ====
section
/-! DEFINITION. The invariant of the block, and what a host sees of a run. -/

namespace Sys2Proof.Machine

/-- F[7:2] of a flags value (R25). -/
def upperFlags (f : Byte) : BitVec 6 := f.extractLsb' 2 6

/-- What holds at every point after the first reset: F[7:2] = 0 (R27, R35), and while `rsp_valid` = 1 the response register
holds one of the six pairs of R87. -/
def Inv (s : State) : Prop :=
  upperFlags s.flags = 0#6 ∧ (s.rspValid = true → (responseOfCode? s.rspStatus s.rspPos).isSome = true)

/-- The response the port shows, if `rsp_valid` = 1 (R87). -/
def State.response? (s : State) : Option Response :=
  if s.rspValid then responseOfCode? s.rspStatus s.rspPos else none

/-- What the host reads on the response outputs after each of the next `k` edges (spec/92_eei_decisions.md D21). -/
def responseTrace : Nat → State → List (Option Response)
  | 0, _ => []
  | k + 1, s =>
    match step s with
    | .next t => t.response? :: responseTrace k t
    | .fault _ => []
    | .refused _ => []

/-- A safe run of `k` steps: no step of it faults or is refused. -/
def SafeRun (k : Nat) (s : State) : Prop :=
  ∃ t : State, Sys2Proof.core.run k s = .next t

/-! ### What claims say of a next state -/

/-- The registers and F are as before: what every error leaves (R152). -/
def SameCore (s t : State) : Prop :=
  t.regA = s.regA ∧ t.regB = s.regB ∧ t.flags = s.flags

/-- The registers and F are all 0 (R34). -/
def ZeroCore (t : State) : Prop :=
  t.regA = 0x00#8 ∧ t.regB = 0x00#8 ∧ t.flags = 0x00#8

/-- The response register holds the response `x`, and `rsp_valid` = 1 (R87). -/
def AnswersWith (t : State) (x : Response) : Prop :=
  t.rspValid = true ∧ t.rspStatus = x.status ∧ t.rspPos = x.pos

/-- `t` is `s` after a successful ADD of `b` into register `r`, in the numbers of R131 and R132: the sum modulo 256 in x[r],
Carry the sum's being above 0xFF, Zero the stored result's being 0, everything else as it was, and the response OK. -/
def AddResult (s t : State) (r : RegId) (b : Byte) : Prop :=
  (t.readReg r).toNat = ((s.readReg r).toNat + b.toNat) % 256 ∧
  (∀ q, q ≠ r → t.readReg q = s.readReg q) ∧
  t.flag .carry = decide ((s.readReg r).toNat + b.toNat > 0xFF) ∧
  t.flag .zero = decide (t.readReg r = 0x00#8) ∧
  upperFlags t.flags = upperFlags s.flags ∧
  AnswersWith t .ok

/-- The instruction fails with the response `x`: a next state with the registers and F as they were, the response register
at `x`, and the message `msg` recovered from it (R88, R102). -/
def FailsWith (i : Instr) (s : State) (x : Response) (msg : String) : Prop :=
  ∃ t, exec i s = .next t ∧ SameCore s t ∧ AnswersWith t x ∧ errorMessage? t.rspStatus t.rspPos = some msg

end Sys2Proof.Machine
end

