-- ==== Sys2Proof/Certificates/Slice0/Obligations.lean ====
section
/-! DEFINITION. The statements about the block, from the numbered rules of spec/. Statements of rules about one edge or one
command are over `clockEdge` and `runCommand`; the host's input queue, the model's own (log entry 1), enters only where
`step` and runs are named. -/

open Sys2Proof Sys2Proof.Machine

/-! ### Reset -/

/-- R173: after construction or any reset, every register reads 0 and both flags read false. -/
def Obligations.ResetMachineReadsZero : Prop :=
  ∀ t : State,
    (t = State.reset ∨ (∃ p s, p.rst = true ∧ clockEdge p s = .next t) ∨ (∃ s, runCommand .reset s = .next t)) →
      (∀ r, t.readReg r = 0x00#8) ∧ (∀ p, t.flag p = false)

/-- R34, R84, R170, R171: the values of reset; what the `rst` pin does, whatever command its cycle presents; what the RESET
command does. That `rsp_status` and `rsp_pos` read 0b00 in `State.reset` and after an edge with `rst` = 1 is the model's
choice: it follows R34 and R170, where R176 calls the two unspecified while `rsp_valid` is 0 (log entry 4, DEDUCED). -/
def Obligations.ResetClearsRegistersFlagsAndResponse : Prop :=
  (ZeroCore State.reset ∧ State.reset.rspValid = false ∧ State.reset.rspStatus = 0b00#2 ∧
    State.reset.rspPos = 0b00#2) ∧
  (∀ p s, p.rst = true → ∃ t, clockEdge p s = .next t ∧ ZeroCore t ∧ t.rspValid = false ∧ t.rspStatus = 0b00#2 ∧
    t.rspPos = 0b00#2) ∧
  (∀ s, ∃ t, runCommand .reset s = .next t ∧ ZeroCore t ∧ AnswersWith t .ok)

/-- R172, R174: whatever the block holds at power-on, one step with `rst` = 1 leaves exactly the reset state and the host's
later inputs. The model's choices: that the queue keeps those inputs (log entries 1, 6), that `rsp_status` and `rsp_pos`
are 0b00 after `rst` although `rsp_valid` is 0 (log entry 4, DEDUCED), and that `freeCount` is 0 in `State.reset` (log
entry 3) and in `State.powerOn` (log entry 5, DESIGN CHOICE). -/
def Obligations.BootNeedsOneReset : Prop :=
  ∀ (p : PortIn) (ps : List PortIn), p.rst = true →
    ∃ t, step (State.powerOn (p :: ps)) = .next t ∧ t = { State.reset with inputs := ps } ∧ Inv t

/-! ### LOAD -/

/-- R120: `LOAD r, #imm`, its encoding, its effect and its frame. -/
def Obligations.LoadStoresImmediate : Prop :=
  ∀ (r : RegId) (imm : Byte) (s : State),
    decode (packWord 0b00#2 0b10#2 0#1 1#1 0b00#2 r.code imm) = .instr (.load [.reg r, .byte imm]) ∧
    ∃ t, exec (.load [.reg r, .byte imm]) s = .next t ∧ t.readReg r = imm ∧
      (∀ q, q ≠ r → t.readReg q = s.readReg q) ∧ t.flags = s.flags ∧ AnswersWith t .ok

/-- R121: the outcome of LOAD for each operand list. -/
def Obligations.LoadValidatesOperands : Prop :=
  ∀ s : State,
    FailsWith (.load []) s (.missing .first) "Missing register" ∧
    (∀ v rest, FailsWith (.load (.byte v :: rest)) s (.mismatched .first) "Argument is not a register") ∧
    (∀ r, FailsWith (.load [.reg r]) s (.missing .second) "Missing value") ∧
    (∀ r q, FailsWith (.load [.reg r, .reg q]) s (.mismatched .second) "Argument is not a byte") ∧
    (∀ r v, ∃ t, exec (.load [.reg r, .byte v]) s = .next t ∧ t.readReg r = v ∧
      (∀ q, q ≠ r → t.readReg q = s.readReg q) ∧ t.flags = s.flags ∧ AnswersWith t .ok)

/-! ### ADD -/

/-- R134: `ADD r, #imm`, its encoding, its result and its frame. -/
def Obligations.AddImmediateResult : Prop :=
  ∀ (r : RegId) (imm : Byte) (s : State),
    decode (packWord 0b01#2 0b10#2 0#1 1#1 0b00#2 r.code imm) = .instr (.add [.reg r, .byte imm]) ∧
    ∃ t, exec (.add [.reg r, .byte imm]) s = .next t ∧ AddResult s t r imm

/-- R135: `ADD r, src`, src = r included, its encoding, its result and its frame; both registers are read before any write. -/
def Obligations.AddRegisterResult : Prop :=
  ∀ (r src : RegId) (s : State),
    decode (packWord 0b01#2 0b10#2 0#1 0#1 0b00#2 r.code src.code) = .instr (.add [.reg r, .reg src]) ∧
    ∃ t, exec (.add [.reg r, .reg src]) s = .next t ∧ AddResult s t r (s.readReg src)

/-- R136: the outcome of ADD for each operand list; ADD never answers Mismatched(2). -/
def Obligations.AddValidatesOperands : Prop :=
  ∀ s : State,
    FailsWith (.add []) s (.missing .first) "Missing register" ∧
    (∀ v rest, FailsWith (.add (.byte v :: rest)) s (.mismatched .first) "Argument is not a register") ∧
    (∀ r, FailsWith (.add [.reg r]) s (.missing .second) "Missing value") ∧
    (∀ r v, ∃ t, exec (.add [.reg r, .byte v]) s = .next t ∧ AddResult s t r v) ∧
    (∀ r q, ∃ t, exec (.add [.reg r, .reg q]) s = .next t ∧ AddResult s t r (s.readReg q)) ∧
    (∀ ops t, exec (.add ops) s = .next t → ¬ AnswersWith t (.mismatched .second))

/-- R132: on a successful ADD F' = (F & 0xFC) | (z << 1) | c, whatever C and Z were, and F' = (z << 1) | c where F[7:2] = 0;
an ADD that fails validation writes no flag. c and z are those of the destination's old value and the second operand's. -/
def Obligations.AddOverwritesBothFlags : Prop :=
  ∀ (r : RegId) (o : Operand) (s : State),
    let b : Byte := match o with | .byte v => v | .reg q => s.readReg q
    let sum := (s.readReg r).toNat + b.toNat
    let c : Byte := if sum > 0xFF then 1#8 else 0#8
    let z : Byte := if sum % 256 = 0 then 1#8 else 0#8
    (∃ t, exec (.add [.reg r, o]) s = .next t ∧ t.flags = (s.flags &&& 0xFC#8) ||| (z <<< 1) ||| c ∧
      (upperFlags s.flags = 0#6 → t.flags = (z <<< 1) ||| c)) ∧
    (∀ ops t, exec (.add ops) s = .next t → t.rspStatus ≠ 0b00#2 → t.flags = s.flags)

/-- R131, R133: the laws of the ALU. -/
def Obligations.AluLaws : Prop :=
  ∀ a b : Byte,
    (zext16 a + zext16 b).toNat = a.toNat + b.toNat ∧
    (alu a b).sum8.toNat = (a.toNat + b.toNat) % 256 ∧
    ((alu a b).c = true ↔ a.toNat + b.toNat ≥ 256) ∧
    (alu a b).c = (zext16 a + zext16 b).getLsbD 8 ∧
    (∀ i, 9 ≤ i → (zext16 a + zext16 b).getLsbD i = false) ∧
    ((alu a b).z = true ↔ a.toNat + b.toNat = 0 ∨ a.toNat + b.toNat = 256) ∧
    ((alu a b).c = true ∧ (alu a b).z = true ↔ a.toNat + b.toNat = 256) ∧
    ((alu a b).z = true ∧ (alu a b).c = false ↔ a = 0#8 ∧ b = 0#8) ∧
    alu a b = alu b a

/-- R26: ADD's result depends only on its operands, not on the earlier flags. Two states with equal registers: equal
registers and responses after, and equal C and Z where the ADD succeeds. -/
def Obligations.AddIgnoresEarlierFlags : Prop :=
  ∀ (ops : List Operand) (s s' t t' : State), s.regA = s'.regA → s.regB = s'.regB →
    exec (.add ops) s = .next t → exec (.add ops) s' = .next t' →
      t.regA = t'.regA ∧ t.regB = t'.regB ∧ t.rspStatus = t'.rspStatus ∧ t.rspPos = t'.rspPos ∧
      (t.rspStatus = 0b00#2 → ∀ p, t.flag p = t'.flag p)

/-- R135: `ADD A, B` and `ADD B, A` compute the same sum and flags but write different registers. -/
def Obligations.AddDirectionOnlyMovesTheResult : Prop :=
  ∀ s : State, ∃ t t', exec (.add [.reg .a, .reg .b]) s = .next t ∧ exec (.add [.reg .b, .reg .a]) s = .next t' ∧
    t.regA = t'.regB ∧ t.flags = t'.flags ∧ t.regB = s.regB ∧ t'.regA = s.regA

/-- R137: resetting Carry before the sum, as one historical version of ADD does, leaves the same state as the unconditional
overwrite that `exec` uses, in immediate mode and in register-register mode, the source equal to the destination
included. The operands are read after Carry is reset. -/
def Obligations.HistoricalAddVersionsAgree : Prop :=
  ∀ (r : RegId) (o : Operand) (s : State),
    let cleared := s.writeFlag .carry false
    let b : Byte := match o with | .byte v => v | .reg q => cleared.readReg q
    let out := alu (cleared.readReg r) b
    let carryFirst := ((cleared.writeReg r out.sum8).writeFlag .carry out.c).writeFlag .zero out.z
    exec (.add [.reg r, o]) s = .next (carryFirst.respond .ok)

/-! ### Both instructions -/

/-- R21, R25, R26, the frame of LOAD and ADD for every operand list: a register that position 1 does not name keeps its
value; LOAD changes no bit of F and ADD none of F[7:2]; a response is registered. -/
def Obligations.InstructionFrame : Prop :=
  (∀ (ops : List Operand) (s t : State), exec (.load ops) s = .next t →
    (∀ q, ops[0]? ≠ some (.reg q) → t.readReg q = s.readReg q) ∧ t.flags = s.flags ∧ t.rspValid = true) ∧
  (∀ (ops : List Operand) (s t : State), exec (.add ops) s = .next t →
    (∀ q, ops[0]? ≠ some (.reg q) → t.readReg q = s.readReg q) ∧ upperFlags t.flags = upperFlags s.flags ∧
      t.rspValid = true)

/-- Every instruction answers a next state and leaves the model's own fields alone: the host's queue and the counter of free
values (the model's choices, log entries 1, 3). -/
def Obligations.InstructionsLeaveHostQueueAlone : Prop :=
  ∀ (i : Instr) (s : State), ∃ t, exec i s = .next t ∧ t.inputs = s.inputs ∧ t.freeCount = s.freeCount

/-- R106: nothing beyond position 2 is inspected. A longer list has no encoding (R62). -/
def Obligations.OperandsBeyondSecondIgnored : Prop :=
  ∀ (o1 o2 : Operand) (rest : List Operand) (s : State),
    exec (.load (o1 :: o2 :: rest)) s = exec (.load [o1, o2]) s ∧
    exec (.add (o1 :: o2 :: rest)) s = exec (.add [o1, o2]) s

/-! ### Errors -/

/-- R152: every command whose response is not OK leaves x[A], x[B] and F exactly as they were, and `rsp_valid` is 1. -/
def Obligations.ErrorsChangeNoState : Prop :=
  ∀ (c : Command) (s t : State), runCommand c s = .next t → t.rspStatus ≠ 0b00#2 → SameCore s t ∧ t.rspValid = true

/-- R153: an EXEC word that decode rejects writes nothing and answers ILLEGAL (0b11, 0b00), whatever its operands. -/
def Obligations.IllegalWordsAnswerIllegal : Prop :=
  ∀ (w : InstrWord) (why : IllegalEncoding) (s : State), decode w = .illegal why →
    ∃ t, execWord w s = .next t ∧ SameCore s t ∧ t.rspValid = true ∧ t.rspStatus = 0b11#2 ∧ t.rspPos = 0b00#2

/-- R87: the six codes; every accepted command drives one of them with `rsp_valid` = 1, and WRITE_REG, WRITE_FLAG and RESET
always drive OK. -/
def Obligations.ResponseCodes : Prop :=
  [Response.ok, .missing .first, .missing .second, .mismatched .first, .mismatched .second, .illegal].map
      (fun r => (r.status, r.pos)) =
    [(0b00#2, 0b00#2), (0b01#2, 0b01#2), (0b01#2, 0b10#2), (0b10#2, 0b01#2), (0b10#2, 0b10#2), (0b11#2, 0b00#2)] ∧
  (∀ (c : Command) (s : State), ∃ t, runCommand c s = .next t ∧ t.rspValid = true ∧
    (t.rspStatus, t.rspPos) ∈
      [(0b00#2, 0b00#2), (0b01#2, 0b01#2), (0b01#2, 0b10#2), (0b10#2, 0b01#2), (0b10#2, 0b10#2), (0b11#2, 0b00#2)] ∧
    ((∀ w, c ≠ .exec w) → t.rspStatus = 0b00#2 ∧ t.rspPos = 0b00#2))

/-- R88: the message of each error, a function of (rsp_status, rsp_pos); only LOAD can report Mismatched(2). -/
def Obligations.MessagesRecoveredFromCodes : Prop :=
  errorMessage? (Response.missing .first).status (Response.missing .first).pos = some "Missing register" ∧
  errorMessage? (Response.mismatched .first).status (Response.mismatched .first).pos = some "Argument is not a register" ∧
  errorMessage? (Response.missing .second).status (Response.missing .second).pos = some "Missing value" ∧
  errorMessage? (Response.mismatched .second).status (Response.mismatched .second).pos = some "Argument is not a byte" ∧
  (∀ (c : Command) (s t : State), runCommand c s = .next t → AnswersWith t (.mismatched .second) →
    ∃ w ops, c = .exec w ∧ decode w = .instr (.load ops))

/-! ### Encoding -/

/-- R60, R67, R72: decode of encode is the instruction, for every well-formed instruction, malformed operand lists
included. -/
def Obligations.DecodeOfEncode : Prop :=
  ∀ i : Instr, i.wf = true → decode (encode i) = .instr i

/-- R62, R67: what decode yields is well-formed, and encoding it gives the word back with RES and the fields of absent
operands cleared: no other bit of the word is dropped. It leaves out R67's example word 0x4FFFFF, which decode rejects by R64 (log
entry 16, DEDUCED). -/
def Obligations.EncodeOfDecode : Prop :=
  ∀ (w : InstrWord) (i : Instr), decode w = .instr i →
    i.wf = true ∧
    encode i = packWord (opField w) (countField w)
      (if countField w = 0#2 then 0#1 else kind1Field w) (if countField w = 2#2 then kind2Field w else 0#1) 0b00#2
      (if countField w = 0#2 then 0#8 else value1Field w) (if countField w = 2#2 then value2Field w else 0#8)

/-- R69, R70: which words are ILLEGAL, and the class of those that are not, by the masks of R70. A word with N = 0 and RES other
than 0b00, such as 0x4FFFFF, is among the ILLEGAL ones by R64, where R67's example says ADD with no operands: the model
follows R64 (log entry 16, DEDUCED). -/
def Obligations.OpcodeMap : Prop :=
  ∀ w : InstrWord,
    ((∃ why, decode w = .illegal why) ↔
      (w &&& 0xC30000#24 ≠ 0x000000#24 ∧ w &&& 0xC30000#24 ≠ 0x400000#24) ∨ countField w = 0b11#2 ∨
      (countField w ≠ 0b00#2 ∧ kind1Field w = 0#1 ∧ 0x01#8 < value1Field w) ∨
      (countField w = 0b10#2 ∧ kind2Field w = 0#1 ∧ 0x01#8 < value2Field w)) ∧
    (∀ ops, decode w = .instr (.load ops) → w &&& 0xC30000#24 = 0x000000#24) ∧
    (∀ ops, decode w = .instr (.add ops) → w &&& 0xC30000#24 = 0x400000#24)

/-- R67: the fields Ki and Vi of positions above N do not matter. The second example word of R67, 0x4FFFFF, has RES = 0b11 and
is ILLEGAL by R64; the model follows R64 (log entry 16), so the example is stated with 0x4CFFFF. -/
def Obligations.AbsentOperandFieldsIgnored : Prop :=
  (∀ (op res : BitVec 2) (k1 k2 k1' k2' : BitVec 1) (v1 v2 v1' v2' : Byte),
    decode (packWord op 0b00#2 k1 k2 res v1 v2) = decode (packWord op 0b00#2 k1' k2' res v1' v2') ∧
    decode (packWord op 0b01#2 k1 k2 res v1 v2) = decode (packWord op 0b01#2 k1 k2' res v1 v2')) ∧
  decode 0x400000#24 = .instr (.add []) ∧ decode 0x4CFFFF#24 = .instr (.add [])

/-- R75: words written out from the encoding decode to the instructions they stand for. -/
def Obligations.SampleWordsDecode : Prop :=
  decode 0b001001000000000000101010#24 = .instr (.load [.reg .a, .byte 42#8]) ∧
  decode 0b011000000000000000000001#24 = .instr (.add [.reg .a, .reg .b]) ∧
  decode 0b011001000000000110011100#24 = .instr (.add [.reg .b, .byte 156#8]) ∧
  decode 0b001011000000010100000110#24 = .instr (.load [.byte 5#8, .byte 6#8]) ∧
  decode 0b010100000000000000000000#24 = .instr (.add [.reg .a])

/-- R41, R60: three bytes, most significant first, spell a word, and decoding takes exactly them. -/
def Obligations.BytesSpellTheWord : Prop :=
  ∀ (w : InstrWord) (rest : List Byte), decodeBytes (bytesOfWord w ++ rest) = some (decode w, rest)

/-- R72: the printed text of a well-formed instruction assembles to its word. The printer is the model's (log entry 10). -/
def Obligations.AssembleOfPrint : Prop :=
  ∀ i : Instr, i.wf = true → assemble (printInstr i) = some (encode i)

/-- R72: whatever text the assembler accepts, the word decodes, and to an instruction that encodes to it again. -/
def Obligations.AssembledWordsAreLegal : Prop :=
  ∀ (text : List Char) (w : InstrWord), assemble text = some w → ∃ i, decode w = .instr i ∧ encode i = w

/-! ### The host port -/

/-- R82: WRITE_REG writes exactly its register and answers OK. -/
def Obligations.WriteRegWritesOneRegister : Prop :=
  ∀ (r : RegId) (v : Byte) (s : State), ∃ t, runCommand (.writeReg r v) s = .next t ∧ t.readReg r = v ∧
    (∀ q, q ≠ r → t.readReg q = s.readReg q) ∧ t.flags = s.flags ∧ AnswersWith t .ok

/-- R83 with the write of R28: WRITE_FLAG writes exactly its bit of F, is idempotent, cannot reach F[7:2], writes no register
and answers OK. -/
def Obligations.WriteFlagWritesOneBit : Prop :=
  ∀ (p : FlagPos) (b : Bool) (s : State), ∃ t, runCommand (.writeFlag p b) s = .next t ∧
    (let n := match p with | .carry => 0 | .zero => 1
     t.flags = (s.flags &&& ~~~(1#8 <<< n)) ||| ((if b then 1#8 else 0#8) <<< n)) ∧
    t.flag p = b ∧ (∀ q, q ≠ p → t.flag q = s.flag q) ∧ upperFlags t.flags = upperFlags s.flags ∧
    t.regA = s.regA ∧ t.regB = s.regB ∧ AnswersWith t .ok ∧
    ∃ u, runCommand (.writeFlag p b) t = .next u ∧ u.flags = t.flags

/-- R80, R81: what the outputs show. -/
def Obligations.OutputsShowRegistersAndFlags : Prop :=
  ∀ s : State, s.outputs.regA = s.readReg .a ∧ s.outputs.regB = s.readReg .b ∧ s.outputs.flags = s.flags ∧
    s.flag .carry = s.outputs.flags.getLsbD 0 ∧ s.flag .zero = s.outputs.flags.getLsbD 1

/-- R91: the eight inputs reach a command as the port list says, for each value of `cmd_op` and of the code inputs. -/
def Obligations.PortPresentsCommands : Prop :=
  ∀ p : PortIn,
    (p.cmdOp = 0b00#2 → p.command = .exec p.instr) ∧
    (p.cmdOp = 0b01#2 → p.wrRegId = 0#1 → p.command = .writeReg .a p.wrData) ∧
    (p.cmdOp = 0b01#2 → p.wrRegId = 1#1 → p.command = .writeReg .b p.wrData) ∧
    (p.cmdOp = 0b10#2 → p.wrFlagPos = 0#1 → p.command = .writeFlag .carry p.wrFlagVal) ∧
    (p.cmdOp = 0b10#2 → p.wrFlagPos = 1#1 → p.command = .writeFlag .zero p.wrFlagVal) ∧
    (p.cmdOp = 0b11#2 → p.command = .reset)

/-- R86, R91: every command can be presented: the inputs that drive it present it, with `rst` low. -/
def Obligations.DrivenCommandsArePresented : Prop :=
  ∀ c : Command, c.drive.command = c ∧ c.drive.cmdValid = true ∧ c.drive.rst = false

/-- R91, R171: inputs a cycle does not use are ignored: two inputs that agree on the used ones have the same edge. -/
def Obligations.UnusedInputsIgnored : Prop :=
  ∀ (p q : PortIn) (s : State), p.rst = q.rst →
    (p.rst = false → p.cmdValid = q.cmdValid ∧
      (p.cmdValid = true → p.cmdOp = q.cmdOp ∧
        (p.cmdOp = 0b00#2 → p.instr = q.instr) ∧
        (p.cmdOp = 0b01#2 → p.wrRegId = q.wrRegId ∧ p.wrData = q.wrData) ∧
        (p.cmdOp = 0b10#2 → p.wrFlagPos = q.wrFlagPos ∧ p.wrFlagVal = q.wrFlagVal))) →
    clockEdge p s = clockEdge q s

/-- R176: an edge with no command changes neither registers nor F and leaves `rsp_valid` = 0; of `rsp_status` and `rsp_pos`
nothing is said, since they are unspecified. An edge with a command is that command. -/
def Obligations.EdgeTakesAtMostTheOneCommand : Prop :=
  ∀ (p : PortIn) (s : State), p.rst = false →
    (p.cmdValid = false → ∃ t, clockEdge p s = .next t ∧ SameCore s t ∧ t.rspValid = false) ∧
    (p.cmdValid = true → clockEdge p s = runCommand p.command s)

/-- R25, R26, R170: F changes only at an edge with `rst`, or by RESET, WRITE_FLAG or an EXEC of ADD. (R26 names ADD and
WRITE_FLAG; R25 and R170 add reset: log entry 15.) -/
def Obligations.FlagsChangeOnlyByAddWriteFlagOrReset : Prop :=
  ∀ (p : PortIn) (s t : State), clockEdge p s = .next t → t.flags ≠ s.flags →
    p.rst = true ∨
    (p.cmdValid = true ∧ (p.command = .reset ∨ (∃ q b, p.command = .writeFlag q b) ∨
      ∃ w ops, p.command = .exec w ∧ decode w = .instr (.add ops)))

/-- R21: a register changes only at an edge with `rst`, or by RESET, WRITE_REG of it, or a LOAD or ADD whose position 1
names it. -/
def Obligations.RegisterChangesOnlyByItsWriters : Prop :=
  ∀ (p : PortIn) (r : RegId) (s t : State), clockEdge p s = .next t → t.readReg r ≠ s.readReg r →
    p.rst = true ∨
    (p.cmdValid = true ∧ (p.command = .reset ∨ (∃ v, p.command = .writeReg r v) ∨
      ∃ w ops, p.command = .exec w ∧ (decode w = .instr (.load ops) ∨ decode w = .instr (.add ops)) ∧
        ops[0]? = some (.reg r)))

/-! ### Steps and runs -/

/-- R85, R100: when the next input presents EXEC of a word that decodes to `i`, the step is `exec i`, in the state with that
input taken off the host's queue (the queue is the model's, log entry 1). A word placed by `withFetchWord` is that next
instruction (log entry 2). -/
def Obligations.StepRunsTheDecodedInstruction : Prop :=
  (∀ (s : State) (p : PortIn) (ps : List PortIn) (i : Instr), s.inputs = p :: ps → p.rst = false → p.cmdValid = true →
    p.cmdOp = 0b00#2 → decode p.instr = .instr i → step s = exec i { s with inputs := ps }) ∧
  (∀ (s : State) (w : Nat) (i : Instr), w < 2 ^ 24 → decode (BitVec.ofNat 24 w) = .instr i →
    step (s.withFetchWord 24 w) = exec i s)

/-- R86, R165: `step` is total: no step faults or is refused, from any state. -/
def Obligations.EveryStepAnswersNext : Prop :=
  ∀ s : State, ∃ t, step s = .next t

/-- R90, R165: a run of any length from any state is safe: errors end no run. -/
def Obligations.EveryRunIsSafe : Prop :=
  ∀ (k : Nat) (s : State), SafeRun k s

/-- R27, R35, R87: every step keeps the invariant: F[7:2] = 0, and while `rsp_valid` = 1 the response register holds one of
the six pairs. -/
def Obligations.StepKeepsInvariant : Prop :=
  ∀ s t : State, Inv s → step s = .next t → Inv t

/-- The invariant holds at reset. -/
def Obligations.ResetSatisfiesInvariant : Prop :=
  Inv State.reset

/-- R10, R86, R110, R176: at every edge, from every state, the clocked machine does to the registers and F what the
transactional function built from the four sub-blocks does, and registers its response. Both call R67's example word
0x4FFFFF ILLEGAL, by R64 (log entry 16, DEDUCED). -/
def Obligations.EdgeRefinesTransaction : Prop :=
  ∀ (p : PortIn) (s : State), ∃ t, clockEdge p s = .next t ∧ t.arch = (transactEdge p s.arch).1 ∧
    t.response? = (transactEdge p s.arch).2

/-- D21, R10, R45: a run of the clocked machine over the inputs the host sends ends with the registers and F of the
transactional run over them, and shows its responses in order. That the inputs wait in a queue is the model's choice (log
entry 1), and so is that both follow R64 on R67's example word 0x4FFFFF (log entry 16, DEDUCED). -/
def Obligations.RunRefinesTransactions : Prop :=
  ∀ (ps rest : List PortIn) (s : State), s.inputs = ps ++ rest →
    ∃ t : State, core.run ps.length s = .next t ∧ t.arch = (transactRun ps s.arch).1 ∧ t.inputs = rest ∧
      responseTrace ps.length s = (transactRun ps s.arch).2

/-- R177: an ADD at the edge right after the LOAD that wrote its source sees the loaded value, its destination the same
register or the other one. (The two commands wait in the host's queue, the model's own: log entry 1.) -/
def Obligations.AddSeesTheLoadBeforeIt : Prop :=
  ∀ (r q : RegId) (v : Byte) (ps : List PortIn) (s : State),
    s.inputs = (Command.exec (encode (.load [.reg r, .byte v]))).drive ::
      (Command.exec (encode (.add [.reg q, .reg r]))).drive :: ps →
    ∃ t : State, core.run 2 s = .next t ∧ t.inputs = ps ∧
      (t.readReg q).toNat = ((if q = r then v else s.readReg q).toNat + v.toNat) % 256 ∧
      (q ≠ r → t.readReg r = v) ∧ AnswersWith t .ok

/-- R110: the enables of `instruction_dispatch` are 0 for every response other than OK; for LOAD the immediate is written
and no flag, for ADD the ALU's sum and both flags. -/
def Obligations.DispatchEnablesOnlyOnOk : Prop :=
  ∀ (w : InstrWord) (m : Arch),
    ((instructionDispatch w m).response ≠ .ok →
      (instructionDispatch w m).rfWe = false ∧ (instructionDispatch w m).flWe = false) ∧
    (∀ r v, decode w = .instr (.load [.reg r, .byte v]) →
      (instructionDispatch w m).response = .ok ∧ (instructionDispatch w m).rfWe = true ∧
      (instructionDispatch w m).rfWa = r ∧ (instructionDispatch w m).rfWd = v ∧ (instructionDispatch w m).flWe = false) ∧
    (∀ r o, decode w = .instr (.add [.reg r, o]) →
      let b : Byte := match o with | .byte v => v | .reg q => m.read q
      (instructionDispatch w m).response = .ok ∧ (instructionDispatch w m).rfWe = true ∧
      (instructionDispatch w m).rfWa = r ∧ (instructionDispatch w m).rfWd = (alu (m.read r) b).sum8 ∧
      (instructionDispatch w m).flWe = true ∧ (instructionDispatch w m).flC = (alu (m.read r) b).c ∧
      (instructionDispatch w m).flZ = (alu (m.read r) b).z)
end

