-- ==== Sys2Proof/Laws/Encoding.lean ====
section
/-! SUPPORT. The fields of a packed word are the fields it was packed from, and a word is packed from its own fields. -/

namespace Sys2Proof

section Fields

variable (op n : BitVec 2) (k1 k2 : BitVec 1) (res : BitVec 2) (v1 v2 : Byte)

/-- A packed word as a number: each field above the ones to its right. -/
theorem packWord_toNat : (packWord op n k1 k2 res v1 v2).toNat =
    (((((op.toNat * 4 + n.toNat) * 2 + k1.toNat) * 2 + k2.toNat) * 4 + res.toNat) * 256 + v1.toNat) * 256
      + v2.toNat := by
  simp only [packWord, BitVec.toNat_append]
  rw [← Nat.shiftLeft_add_eq_or_of_lt v2.isLt, ← Nat.shiftLeft_add_eq_or_of_lt v1.isLt,
    ← Nat.shiftLeft_add_eq_or_of_lt res.isLt, ← Nat.shiftLeft_add_eq_or_of_lt k2.isLt,
    ← Nat.shiftLeft_add_eq_or_of_lt k1.isLt, ← Nat.shiftLeft_add_eq_or_of_lt n.isLt]
  simp only [Nat.shiftLeft_eq]

/-- The bounds of all fields, for arithmetic on a packed word. -/
theorem field_bounds : op.toNat < 4 ∧ n.toNat < 4 ∧ k1.toNat < 2 ∧ k2.toNat < 2 ∧ res.toNat < 4 ∧
    v1.toNat < 256 ∧ v2.toNat < 256 :=
  ⟨op.isLt, n.isLt, k1.isLt, k2.isLt, res.isLt, v1.isLt, v2.isLt⟩

@[simp] theorem opField_packWord : opField (packWord op n k1 k2 res v1 v2) = op := by
  apply BitVec.eq_of_toNat_eq
  have := field_bounds op n k1 k2 res v1 v2
  simp only [opField, BitVec.extractLsb'_toNat, packWord_toNat, Nat.shiftRight_eq_div_pow]
  omega

@[simp] theorem countField_packWord : countField (packWord op n k1 k2 res v1 v2) = n := by
  apply BitVec.eq_of_toNat_eq
  have := field_bounds op n k1 k2 res v1 v2
  simp only [countField, BitVec.extractLsb'_toNat, packWord_toNat, Nat.shiftRight_eq_div_pow]
  omega

@[simp] theorem kind1Field_packWord : kind1Field (packWord op n k1 k2 res v1 v2) = k1 := by
  apply BitVec.eq_of_toNat_eq
  have := field_bounds op n k1 k2 res v1 v2
  simp only [kind1Field, BitVec.extractLsb'_toNat, packWord_toNat, Nat.shiftRight_eq_div_pow]
  omega

@[simp] theorem kind2Field_packWord : kind2Field (packWord op n k1 k2 res v1 v2) = k2 := by
  apply BitVec.eq_of_toNat_eq
  have := field_bounds op n k1 k2 res v1 v2
  simp only [kind2Field, BitVec.extractLsb'_toNat, packWord_toNat, Nat.shiftRight_eq_div_pow]
  omega

@[simp] theorem resField_packWord : resField (packWord op n k1 k2 res v1 v2) = res := by
  apply BitVec.eq_of_toNat_eq
  have := field_bounds op n k1 k2 res v1 v2
  simp only [resField, BitVec.extractLsb'_toNat, packWord_toNat, Nat.shiftRight_eq_div_pow]
  omega

@[simp] theorem value1Field_packWord : value1Field (packWord op n k1 k2 res v1 v2) = v1 := by
  apply BitVec.eq_of_toNat_eq
  have := field_bounds op n k1 k2 res v1 v2
  simp only [value1Field, BitVec.extractLsb'_toNat, packWord_toNat, Nat.shiftRight_eq_div_pow]
  omega

@[simp] theorem value2Field_packWord : value2Field (packWord op n k1 k2 res v1 v2) = v2 := by
  apply BitVec.eq_of_toNat_eq
  have := field_bounds op n k1 k2 res v1 v2
  simp only [value2Field, BitVec.extractLsb'_toNat, packWord_toNat, Nat.shiftRight_eq_div_pow]
  omega

end Fields

/-- A word is packed from its own fields. -/
theorem packWord_fields (w : InstrWord) :
    packWord (opField w) (countField w) (kind1Field w) (kind2Field w) (resField w) (value1Field w) (value2Field w)
      = w := by
  apply BitVec.eq_of_toNat_eq
  have := w.isLt
  simp only [packWord_toNat, opField, countField, kind1Field, kind2Field, resField, value1Field, value2Field,
    BitVec.extractLsb'_toNat, Nat.shiftRight_eq_div_pow]
  omega

/-! ### Codes -/

@[simp] theorem regOfCode?_code (r : RegId) : regOfCode? r.code = some r := by cases r <;> rfl

/-- A code names a register exactly when it is that register's code. -/
theorem regOfCode?_eq_some {v : Byte} {r : RegId} : regOfCode? v = some r ↔ v = r.code := by
  constructor
  · intro h
    unfold regOfCode? at h
    split at h
    · next hv => cases h; exact hv
    · split at h
      · next hv => cases h; exact hv
      · cases h
  · rintro rfl
    exact regOfCode?_code r

/-- An operand's own kind and value fields decode to it. -/
@[simp] theorem decodeOperand_fields (o : Operand) : decodeOperand (kindBit (some o), valueBits (some o)) = some o := by
  cases o with
  | byte v => rfl
  | reg r => cases r <;> rfl

/-- An operand is decoded only from its own kind and value fields. -/
theorem decodeOperand_eq_some {k : BitVec 1} {v : Byte} {o : Operand} (h : decodeOperand (k, v) = some o) :
    k = kindBit (some o) ∧ v = valueBits (some o) := by
  unfold decodeOperand at h
  split at h
  · next hk => cases h; exact ⟨hk, rfl⟩
  · next hk =>
    obtain ⟨r, hr, rfl⟩ := Option.map_eq_some_iff.1 h
    refine ⟨?_, regOfCode?_eq_some.1 hr⟩
    have zero_or_one : ∀ b : BitVec 1, b ≠ 1#1 → b = 0#1 := by decide
    exact zero_or_one k hk

/-- Everything decode says of a word it does not reject. -/
theorem decode_eq_instr {w : InstrWord} {i : Instr} (h : decode w = .instr i) :
    opField w = i.op ∧ countField w ≠ 3#2 ∧ resField w = 0#2 ∧ decodeOperands (suppliedFields w) = some i.operands := by
  unfold decode at h
  split at h
  · cases h
  · next mk hmk =>
    split at h
    · cases h
    · next hn =>
      split at h
      · cases h
      · next hr =>
        split at h
        · cases h
        · next ops hops =>
          cases h
          unfold instrOfOp? at hmk
          split at hmk
          · next ho => cases hmk; exact ⟨ho, hn, by simpa using hr, hops⟩
          · split at hmk
            · next ho => cases hmk; exact ⟨ho, hn, by simpa using hr, hops⟩
            · cases hmk

/-- Masking a word with the opcode table's mask keeps OP and RES and clears the rest (R70). -/
theorem word_and_class_mask (w : InstrWord) :
    w &&& 0xC30000#24 = packWord (opField w) 0#2 0#1 0#1 (resField w) 0#8 0#8 := by
  rw [← packWord_fields (w &&& 0xC30000#24)]
  have and_three : ∀ x : BitVec 2, x &&& 3#2 = x := by decide
  simp [opField, countField, kind1Field, kind2Field, resField, value1Field, value2Field, BitVec.extractLsb'_and, and_three]

/-- The three bytes of a word spell it. -/
theorem wordOfBytes_extract (w : InstrWord) :
    wordOfBytes (w.extractLsb' 16 8) (w.extractLsb' 8 8) (w.extractLsb' 0 8) = w := by
  apply BitVec.eq_of_toNat_eq
  have := w.isLt
  simp only [wordOfBytes, BitVec.toNat_append]
  rw [← Nat.shiftLeft_add_eq_or_of_lt (BitVec.isLt _), ← Nat.shiftLeft_add_eq_or_of_lt (BitVec.isLt _)]
  simp only [BitVec.extractLsb'_toNat, Nat.shiftLeft_eq, Nat.shiftRight_eq_div_pow]
  omega

end Sys2Proof
end

