-- ==== Sys2Proof/Laws/State.lean ====
section
/-! SUPPORT. One lemma for each field of State under each update, so that no proof unfolds a record update. -/

namespace Sys2Proof.Machine.State

variable (s : State)

/-! ### Writing a register -/

@[simp] theorem writeReg_regA (r : RegId) (v : Byte) :
    (s.writeReg r v).regA = if r = .a then v else s.regA := by cases r <;> rfl
@[simp] theorem writeReg_regB (r : RegId) (v : Byte) :
    (s.writeReg r v).regB = if r = .b then v else s.regB := by cases r <;> rfl
@[simp] theorem writeReg_flags (r : RegId) (v : Byte) : (s.writeReg r v).flags = s.flags := by cases r <;> rfl
@[simp] theorem writeReg_rspValid (r : RegId) (v : Byte) : (s.writeReg r v).rspValid = s.rspValid := by cases r <;> rfl
@[simp] theorem writeReg_rspStatus (r : RegId) (v : Byte) : (s.writeReg r v).rspStatus = s.rspStatus := by cases r <;> rfl
@[simp] theorem writeReg_rspPos (r : RegId) (v : Byte) : (s.writeReg r v).rspPos = s.rspPos := by cases r <;> rfl
@[simp] theorem writeReg_inputs (r : RegId) (v : Byte) : (s.writeReg r v).inputs = s.inputs := by cases r <;> rfl
@[simp] theorem writeReg_freeCount (r : RegId) (v : Byte) : (s.writeReg r v).freeCount = s.freeCount := by cases r <;> rfl

/-! ### writeFlag -/

@[simp] theorem writeFlag_regA (p : FlagPos) (b : Bool) : (s.writeFlag p b).regA = s.regA := rfl
@[simp] theorem writeFlag_regB (p : FlagPos) (b : Bool) : (s.writeFlag p b).regB = s.regB := rfl
@[simp] theorem writeFlag_flags (p : FlagPos) (b : Bool) : (s.writeFlag p b).flags = setFlagBit s.flags p b := rfl
@[simp] theorem writeFlag_rspValid (p : FlagPos) (b : Bool) : (s.writeFlag p b).rspValid = s.rspValid := rfl
@[simp] theorem writeFlag_rspStatus (p : FlagPos) (b : Bool) : (s.writeFlag p b).rspStatus = s.rspStatus := rfl
@[simp] theorem writeFlag_rspPos (p : FlagPos) (b : Bool) : (s.writeFlag p b).rspPos = s.rspPos := rfl
@[simp] theorem writeFlag_inputs (p : FlagPos) (b : Bool) : (s.writeFlag p b).inputs = s.inputs := rfl
@[simp] theorem writeFlag_freeCount (p : FlagPos) (b : Bool) : (s.writeFlag p b).freeCount = s.freeCount := rfl

/-! ### respond -/

@[simp] theorem respond_regA (r : Response) : (s.respond r).regA = s.regA := rfl
@[simp] theorem respond_regB (r : Response) : (s.respond r).regB = s.regB := rfl
@[simp] theorem respond_flags (r : Response) : (s.respond r).flags = s.flags := rfl
@[simp] theorem respond_rspValid (r : Response) : (s.respond r).rspValid = true := rfl
@[simp] theorem respond_rspStatus (r : Response) : (s.respond r).rspStatus = r.status := rfl
@[simp] theorem respond_rspPos (r : Response) : (s.respond r).rspPos = r.pos := rfl
@[simp] theorem respond_inputs (r : Response) : (s.respond r).inputs = s.inputs := rfl
@[simp] theorem respond_freeCount (r : Response) : (s.respond r).freeCount = s.freeCount := rfl

/-! ### clearCore -/

@[simp] theorem clearCore_regA : s.clearCore.regA = 0#8 := rfl
@[simp] theorem clearCore_regB : s.clearCore.regB = 0#8 := rfl
@[simp] theorem clearCore_flags : s.clearCore.flags = 0#8 := rfl
@[simp] theorem clearCore_rspValid : s.clearCore.rspValid = s.rspValid := rfl
@[simp] theorem clearCore_rspStatus : s.clearCore.rspStatus = s.rspStatus := rfl
@[simp] theorem clearCore_rspPos : s.clearCore.rspPos = s.rspPos := rfl
@[simp] theorem clearCore_inputs : s.clearCore.inputs = s.inputs := rfl
@[simp] theorem clearCore_freeCount : s.clearCore.freeCount = s.freeCount := rfl

/-! ### resetEdge -/

@[simp] theorem resetEdge_regA : s.resetEdge.regA = 0#8 := rfl
@[simp] theorem resetEdge_regB : s.resetEdge.regB = 0#8 := rfl
@[simp] theorem resetEdge_flags : s.resetEdge.flags = 0#8 := rfl
@[simp] theorem resetEdge_rspValid : s.resetEdge.rspValid = false := rfl
@[simp] theorem resetEdge_rspStatus : s.resetEdge.rspStatus = 0#2 := rfl
@[simp] theorem resetEdge_rspPos : s.resetEdge.rspPos = 0#2 := rfl
@[simp] theorem resetEdge_inputs : s.resetEdge.inputs = s.inputs := rfl
@[simp] theorem resetEdge_freeCount : s.resetEdge.freeCount = s.freeCount := rfl

/-! ### idleEdge -/

@[simp] theorem idleEdge_regA : s.idleEdge.regA = s.regA := rfl
@[simp] theorem idleEdge_regB : s.idleEdge.regB = s.regB := rfl
@[simp] theorem idleEdge_flags : s.idleEdge.flags = s.flags := rfl
@[simp] theorem idleEdge_rspValid : s.idleEdge.rspValid = false := rfl
@[simp] theorem idleEdge_rspStatus : s.idleEdge.rspStatus = Config.freeRspStatus s.freeCount := rfl
@[simp] theorem idleEdge_rspPos : s.idleEdge.rspPos = Config.freeRspPos s.freeCount := rfl
@[simp] theorem idleEdge_inputs : s.idleEdge.inputs = s.inputs := rfl
@[simp] theorem idleEdge_freeCount : s.idleEdge.freeCount = s.freeCount + 1 := rfl

/-! ### takeInput -/

@[simp] theorem takeInput_regA : s.takeInput.regA = s.regA := rfl
@[simp] theorem takeInput_regB : s.takeInput.regB = s.regB := rfl
@[simp] theorem takeInput_flags : s.takeInput.flags = s.flags := rfl
@[simp] theorem takeInput_rspValid : s.takeInput.rspValid = s.rspValid := rfl
@[simp] theorem takeInput_rspStatus : s.takeInput.rspStatus = s.rspStatus := rfl
@[simp] theorem takeInput_rspPos : s.takeInput.rspPos = s.rspPos := rfl
@[simp] theorem takeInput_inputs : s.takeInput.inputs = s.inputs.tail := rfl
@[simp] theorem takeInput_freeCount : s.takeInput.freeCount = s.freeCount := rfl

/-! ### presentExec -/

@[simp] theorem presentExec_regA (w : InstrWord) : (s.presentExec w).regA = s.regA := rfl
@[simp] theorem presentExec_regB (w : InstrWord) : (s.presentExec w).regB = s.regB := rfl
@[simp] theorem presentExec_flags (w : InstrWord) : (s.presentExec w).flags = s.flags := rfl
@[simp] theorem presentExec_rspValid (w : InstrWord) : (s.presentExec w).rspValid = s.rspValid := rfl
@[simp] theorem presentExec_rspStatus (w : InstrWord) : (s.presentExec w).rspStatus = s.rspStatus := rfl
@[simp] theorem presentExec_rspPos (w : InstrWord) : (s.presentExec w).rspPos = s.rspPos := rfl
@[simp] theorem presentExec_inputs (w : InstrWord) : (s.presentExec w).inputs = (Command.exec w).drive :: s.inputs := rfl
@[simp] theorem presentExec_freeCount (w : InstrWord) : (s.presentExec w).freeCount = s.freeCount := rfl

/-! ### addInto -/

@[simp] theorem addInto_rspValid (r : RegId) (b : Byte) : (s.addInto r b).rspValid = s.rspValid := by cases r <;> rfl
@[simp] theorem addInto_rspStatus (r : RegId) (b : Byte) : (s.addInto r b).rspStatus = s.rspStatus := by cases r <;> rfl
@[simp] theorem addInto_rspPos (r : RegId) (b : Byte) : (s.addInto r b).rspPos = s.rspPos := by cases r <;> rfl
@[simp] theorem addInto_inputs (r : RegId) (b : Byte) : (s.addInto r b).inputs = s.inputs := by cases r <;> rfl
@[simp] theorem addInto_freeCount (r : RegId) (b : Byte) : (s.addInto r b).freeCount = s.freeCount := by cases r <;> rfl

/-! ### Reset -/

@[simp] theorem reset_regA : reset.regA = 0#8 := rfl
@[simp] theorem reset_regB : reset.regB = 0#8 := rfl
@[simp] theorem reset_flags : reset.flags = 0#8 := rfl
@[simp] theorem reset_rspValid : reset.rspValid = false := rfl
@[simp] theorem reset_rspStatus : reset.rspStatus = 0#2 := rfl
@[simp] theorem reset_rspPos : reset.rspPos = 0#2 := rfl
@[simp] theorem reset_inputs : reset.inputs = [] := rfl
@[simp] theorem reset_freeCount : reset.freeCount = 0 := rfl

end Sys2Proof.Machine.State
end

