-- ==== Sys2Proof/Laws/Ops.lean ====
section
/-! SUPPORT. What each shared operation does, said once: reads after writes, the ALU, the flag bits, the operand checks. -/

namespace Sys2Proof.Machine

/-! ### Registers -/

@[simp] theorem State.readReg_a (s : State) : s.readReg .a = s.regA := rfl
@[simp] theorem State.readReg_b (s : State) : s.readReg .b = s.regB := rfl

/-- Two states read alike in every register exactly when A and B are equal. -/
theorem State.readReg_ext {s t : State} (ha : s.regA = t.regA) (hb : s.regB = t.regB) (r : RegId) :
    s.readReg r = t.readReg r := by cases r <;> assumption

theorem State.readReg_writeReg_same (s : State) (r : RegId) (v : Byte) : (s.writeReg r v).readReg r = v := by
  cases r <;> rfl

theorem State.readReg_writeReg_other (s : State) {r q : RegId} (v : Byte) (h : q ≠ r) :
    (s.writeReg r v).readReg q = s.readReg q := by
  cases r <;> cases q <;> first | rfl | exact absurd rfl h

@[simp] theorem State.readReg_writeFlag (s : State) (p : FlagPos) (b : Bool) (r : RegId) :
    (s.writeFlag p b).readReg r = s.readReg r := by cases r <;> rfl

@[simp] theorem State.readReg_respond (s : State) (x : Response) (r : RegId) :
    (s.respond x).readReg r = s.readReg r := by cases r <;> rfl

/-! ### Flag bits -/

/-- The written flag reads as written, the other one as before. -/
theorem getFlagBit_setFlagBit (f : Byte) (p q : FlagPos) (b : Bool) :
    getFlagBit (setFlagBit f p b) q = if q = p then b else getFlagBit f q := by
  cases p <;> cases q <;> cases b <;> revert f <;> decide

/-- Of two writes of one flag the later stands. -/
theorem setFlagBit_setFlagBit (f : Byte) (p : FlagPos) (b c : Bool) :
    setFlagBit (setFlagBit f p b) p c = setFlagBit f p c := by
  cases p <;> cases b <;> cases c <;> revert f <;> decide

/-- Writing a flag leaves F[7:2] alone. -/
theorem setFlagBit_upper (f : Byte) (p : FlagPos) (b : Bool) :
    (setFlagBit f p b).extractLsb' 2 6 = f.extractLsb' 2 6 := by
  cases p <;> cases b <;> revert f <;> decide

/-! ### The ALU -/

/-- The ALU computes the exact sum and narrows it. -/
theorem alu_sum8_toNat (a b : Byte) : (alu a b).sum8.toNat = (a.toNat + b.toNat) % 256 := by
  simp only [alu, zext16, BitVec.extractLsb'_toNat, BitVec.toNat_add, BitVec.toNat_setWidth]
  have := a.isLt; have := b.isLt
  omega

theorem alu_c_eq (a b : Byte) : (alu a b).c = decide (256 ≤ a.toNat + b.toNat) := by
  have := a.isLt; have := b.isLt
  simp only [alu, zext16, gt_iff_lt, BitVec.lt_def, BitVec.toNat_add, BitVec.toNat_setWidth, BitVec.toNat_ofNat]
  exact decide_eq_decide.2 (by omega)

theorem alu_z_eq (a b : Byte) : (alu a b).z = decide ((alu a b).sum8 = 0#8) := rfl

/-! ### Operands -/

@[simp] theorem operandAt_first (ops : List Operand) : operandAt ops .first = ops[0]? := rfl
@[simp] theorem operandAt_second (ops : List Operand) : operandAt ops .second = ops[1]? := rfl
@[simp] theorem requireRegister1_nil : requireRegister1 [] = .error (.missing .first) := rfl
@[simp] theorem requireRegister1_reg (r : RegId) (ops : List Operand) : requireRegister1 (.reg r :: ops) = .ok r := rfl
@[simp] theorem requireRegister1_byte (v : Byte) (ops : List Operand) :
    requireRegister1 (.byte v :: ops) = .error (.mismatched .first) := rfl

/-! ### Reading an instruction's outcome -/

/-- Everything LOAD can do: an error response, or the write of one immediate and OK. -/
theorem execLoad_cases (ops : List Operand) (s : State) :
    (∃ e, execLoad ops s = .next (s.respond (InstrError.response e))) ∨
      ∃ r v, ops[0]? = some (.reg r) ∧ ops[1]? = some (.byte v) ∧ execLoad ops s = .next ((s.writeReg r v).respond .ok) := by
  match ops with
  | [] => exact .inl ⟨_, rfl⟩
  | .byte _ :: _ => exact .inl ⟨_, rfl⟩
  | [.reg _] => exact .inl ⟨_, rfl⟩
  | .reg _ :: .reg _ :: _ => exact .inl ⟨_, rfl⟩
  | .reg r :: .byte v :: _ => exact .inr ⟨r, v, rfl, rfl, rfl⟩

/-- Everything ADD can do: an error response that is not Mismatched(2), or one addition into a register and OK. -/
theorem execAdd_cases (ops : List Operand) (s : State) :
    (∃ e, e ≠ InstrError.mismatched .second ∧ execAdd ops s = .next (s.respond e.response)) ∨
      ∃ r b, ops[0]? = some (.reg r) ∧ (ops[1]? = some (.byte b) ∨ ∃ q, ops[1]? = some (.reg q) ∧ b = s.readReg q) ∧
        execAdd ops s = .next ((s.addInto r b).respond .ok) := by
  match ops with
  | [] => exact .inl ⟨.missing .first, by decide, rfl⟩
  | .byte _ :: _ => exact .inl ⟨.mismatched .first, by decide, rfl⟩
  | [.reg _] => exact .inl ⟨.missing .second, by decide, rfl⟩
  | .reg r :: .reg q :: _ => exact .inr ⟨r, s.readReg q, rfl, .inr ⟨q, rfl, rfl⟩, rfl⟩
  | .reg r :: .byte v :: _ => exact .inr ⟨r, v, rfl, .inl rfl, rfl⟩

end Sys2Proof.Machine
end

