-- ==== Sys2Proof/Laws/PerInstr.lean ====
section
/-! SUPPORT. Statements made per instruction, one lemma for each constructor of Instr. -/

namespace Sys2Proof.Laws

/-- The class of an encoded instruction: its OP field selects it, RES is 0b00 and N is no reserved count (R61, R62, R64),
whatever its operand list. -/
def EncodedClass.Statement (i : Instr) : Prop :=
  opField (encode i) = i.op ∧ resField (encode i) = 0#2 ∧ countField (encode i) ≠ 3#2

/-- N of an encoded instruction is 0, 1 or 2. -/
theorem encoded_count_ne_three (k : Nat) : BitVec.ofNat 2 (min k 2) ≠ 3#2 := by
  match k with
  | 0 => decide
  | 1 => decide
  | k + 2 => rw [Nat.min_eq_right (by omega)]; decide

theorem EncodedClass.load (ops : List Operand) : EncodedClass.Statement (.load ops) := by
  simp only [EncodedClass.Statement, encode, opField_packWord, resField_packWord, countField_packWord, true_and]
  exact encoded_count_ne_three _

theorem EncodedClass.add (ops : List Operand) : EncodedClass.Statement (.add ops) := by
  simp only [EncodedClass.Statement, encode, opField_packWord, resField_packWord, countField_packWord, true_and]
  exact encoded_count_ne_three _

end Sys2Proof.Laws
end

