-- ==== Sys2Proof/Laws/Step.lean ====
section
/-! SUPPORT. What a command and a step can do, said once, with the guard of each case. -/

namespace Sys2Proof.Machine

/-- Everything an accepted command can do. -/
theorem runCommand_cases {c : Command} {s t : State} (h : runCommand c s = .next t) :
    (∃ w x, c = .exec w ∧ x ≠ Response.ok ∧ t = s.respond x) ∨
    (∃ w ops r v, c = .exec w ∧ decode w = .instr (.load ops) ∧ ops[0]? = some (.reg r) ∧
      t = (s.writeReg r v).respond .ok) ∨
    (∃ w ops r b, c = .exec w ∧ decode w = .instr (.add ops) ∧ ops[0]? = some (.reg r) ∧
      t = (s.addInto r b).respond .ok) ∨
    (∃ r v, c = .writeReg r v ∧ t = (s.writeReg r v).respond .ok) ∨
    (∃ p b, c = .writeFlag p b ∧ t = (s.writeFlag p b).respond .ok) ∨
    (c = .reset ∧ t = s.clearCore.respond .ok) := by
  have error_ne_ok : ∀ e : InstrError, e.response ≠ .ok := by intro e; cases e <;> simp [InstrError.response]
  cases c with
  | writeReg r v => cases h; exact .inr (.inr (.inr (.inl ⟨r, v, rfl, rfl⟩)))
  | writeFlag p b => cases h; exact .inr (.inr (.inr (.inr (.inl ⟨p, b, rfl, rfl⟩))))
  | reset => cases h; exact .inr (.inr (.inr (.inr (.inr ⟨rfl, rfl⟩))))
  | exec w =>
    simp only [runCommand, execWord] at h
    split at h
    · cases h; exact .inl ⟨w, .illegal, rfl, by decide, rfl⟩
    · next i hd =>
      cases i with
      | load ops =>
        rcases execLoad_cases ops s with ⟨e, he⟩ | ⟨r, v, h0, -, he⟩ <;> rw [exec, he] at h <;> cases h
        · exact .inl ⟨w, _, rfl, error_ne_ok e, rfl⟩
        · exact .inr (.inl ⟨w, ops, r, v, rfl, hd, h0, rfl⟩)
      | add ops =>
        rcases execAdd_cases ops s with ⟨e, -, he⟩ | ⟨r, b, h0, -, he⟩ <;> rw [exec, he] at h <;> cases h
        · exact .inl ⟨w, _, rfl, error_ne_ok e, rfl⟩
        · exact .inr (.inr (.inl ⟨w, ops, r, b, rfl, hd, h0, rfl⟩))

/-- Everything a rising edge can do. -/
theorem clockEdge_cases {p : PortIn} {s t : State} (h : clockEdge p s = .next t) :
    (p.rst = true ∧ t = s.resetEdge) ∨
    (p.rst = false ∧ p.cmdValid = true ∧ runCommand p.command s = .next t) ∨
    (p.rst = false ∧ p.cmdValid = false ∧ t = s.idleEdge) := by
  unfold clockEdge at h
  split at h
  · next hr => cases h; exact .inl ⟨hr, rfl⟩
  · next hr =>
    split at h
    · next hv => exact .inr (.inl ⟨by simpa using hr, hv, h⟩)
    · next hv => cases h; exact .inr (.inr ⟨by simpa using hr, by simpa using hv, rfl⟩)

/-- A step with an input waiting is the edge with that input. -/
theorem step_cons {s : State} {p : PortIn} {ps : List PortIn} (h : s.inputs = p :: ps) :
    step s = clockEdge p { s with inputs := ps } := by
  simp [step, State.nextInput, State.takeInput, h]

/-- A step with no input waiting is an edge at which the host sends nothing. -/
theorem step_nil {s : State} (h : s.inputs = []) : step s = .next s.idleEdge := by
  have : s.takeInput = s := by cases s; subst h; rfl
  simp only [step, State.nextInput, h, this]
  rfl

end Sys2Proof.Machine
end

