-- ==== Sys2Proof/Laws/SubBlocks.lean ====
section
/-! SUPPORT. The transactional view of a state after each update, and the register ports of the sub-blocks. -/

namespace Sys2Proof.Machine

@[simp] theorem State.arch_a (s : State) : s.arch.a = s.regA := rfl
@[simp] theorem State.arch_b (s : State) : s.arch.b = s.regB := rfl
@[simp] theorem State.arch_f (s : State) : s.arch.f = s.flags := rfl
@[simp] theorem State.arch_respond (s : State) (x : Response) : (s.respond x).arch = s.arch := rfl
@[simp] theorem State.arch_idleEdge (s : State) : s.idleEdge.arch = s.arch := rfl
@[simp] theorem State.arch_clearCore (s : State) : s.clearCore.arch = Arch.zero := rfl
@[simp] theorem State.arch_resetEdge (s : State) : s.resetEdge.arch = Arch.zero := rfl

/-- The read port shows what `x[r]` reads. -/
@[simp] theorem Arch.read_arch (s : State) (r : RegId) : s.arch.read r = s.readReg r := by cases r <;> rfl

/-- A field that holds a register's code names that register. -/
@[simp] theorem regOfValueField_code (r : RegId) : regOfValueField r.code = r := by cases r <;> rfl

/-- Both flag writes of an ADD at once, in the form of R132. -/
theorem setFlagBit_carry_zero (f : Byte) (c z : Bool) :
    setFlagBit (setFlagBit f .carry c) .zero z = (f &&& 0xFC#8) ||| (bitByte z <<< 1) ||| bitByte c := by
  cases c <;> cases z <;> revert f <;> decide

end Sys2Proof.Machine
end

