-- ==== Sys2Proof/Tests/Slice0.lean ====
section
/-! SUPPORT. Tests. Expected values come from spec/95_test_vectors.md and spec/30_encoding.md R75, not from the model. The
witnesses show that the hypotheses of each statement of Certificates/Slice0/Obligations.lean can be met. -/

namespace Sys2Proof.Machine.Tests

/-! ### Well-formedness: the one check, on each instruction -/

theorem test_wf_refuses_three_operands_load : Instr.wf (.load [.reg .a, .byte 1#8, .byte 2#8]) = false := by decide
theorem test_wf_refuses_three_operands_add : Instr.wf (.add [.reg .a, .reg .b, .reg .a]) = false := by decide
theorem test_wf_takes_malformed_lists : [Instr.load [], .add [.byte 1#8], .load [.reg .a, .reg .b]].all Instr.wf = true := by
  decide

/-! ### Decoding: words written out from R60, and the words of R75 and section 2.5 -/

theorem test_decode_load_bits : decode 0b00_10_0_1_00_00000001_00100110#24 = .instr (.load [.reg .b, .byte 38#8]) := by
  decide
theorem test_decode_add_imm_bits : decode 0b01_10_0_1_00_00000000_10011101#24 = .instr (.add [.reg .a, .byte 157#8]) := by
  decide
theorem test_decode_add_reg_bits : decode 0b01_10_0_0_00_00000001_00000000#24 = .instr (.add [.reg .b, .reg .a]) := by
  decide

/-- The rows of R75: text, word, instruction. -/
def r75 : List (String × InstrWord × Instr) :=
  [("LOAD A, #42", 0x24002A#24, .load [.reg .a, .byte 42#8]),
   ("LOAD B, #38", 0x240126#24, .load [.reg .b, .byte 38#8]),
   ("ADD A, B", 0x600001#24, .add [.reg .a, .reg .b]),
   ("ADD A, A", 0x600000#24, .add [.reg .a, .reg .a]),
   ("ADD B, A", 0x600100#24, .add [.reg .b, .reg .a]),
   ("ADD A, #157", 0x64009D#24, .add [.reg .a, .byte 157#8]),
   ("ADD B, #156", 0x64019C#24, .add [.reg .b, .byte 156#8]),
   ("ADD A, #0xDE", 0x6400DE#24, .add [.reg .a, .byte 0xDE#8])] ++
  [("ADD", 0x400000#24, .add []),
   ("ADD A", 0x500000#24, .add [.reg .a]),
   ("ADD #1", 0x580100#24, .add [.byte 1#8]),
   ("LOAD", 0x000000#24, .load []),
   ("LOAD B", 0x100100#24, .load [.reg .b]),
   ("LOAD A, A", 0x200000#24, .load [.reg .a, .reg .a]),
   ("LOAD #5, #6", 0x2C0506#24, .load [.byte 5#8, .byte 6#8])]

theorem test_r75_decode : r75.all (fun x => decode x.2.1 == .instr x.2.2) = true := by decide
theorem test_r75_encode : r75.all (fun x => encode x.2.2 == x.2.1) = true := by decide
theorem test_r75_assemble : r75.all (fun x => assemble x.1.toList == some x.2.1) = true := by decide

theorem test_decode_illegal_classes :
    decode 0x800000#24 = .illegal .reservedOpcode ∧ decode 0xE4002A#24 = .illegal .reservedOpcode ∧
    decode 0x74002A#24 = .illegal .reservedCount ∧ decode 0x65002A#24 = .illegal .reservedBits ∧
    decode 0x600002#24 = .illegal .reservedRegister ∧ decode 0x24FF2A#24 = .illegal .reservedRegister ∧
    decode 0x100700#24 = .illegal .reservedRegister := by decide

/-- RES = 0b11 is ILLEGAL "whatever OP and N hold" (R64): log entry 16. -/
theorem test_decode_reserved_bits_win : decode 0x4FFFFF#24 = .illegal .reservedBits := by decide

theorem test_table_word_load : decodeTableWord 24 0x24002A = some (.load [.reg .a, .byte 42#8]) := by decide
theorem test_table_word_add : decodeTableWord 24 0x600001 = some (.add [.reg .a, .reg .b]) := by decide
theorem test_table_word_refuses : decodeTableWord 24 0x800000 = none ∧ decodeTableWord 24 0x1000000 = none := by decide

theorem test_bytes : bytesOfWord 0x24012A#24 = [0x24#8, 0x01#8, 0x2A#8] := by decide
theorem test_bytes_short : decodeBytes [0x24#8, 0x01#8] = none := by decide

/-- What the assembler refuses (R72). -/
theorem test_assembler_refuses :
    ["MOV A, #1", "ADD A, B, A", "LOAD A, #256", "ADD A, C", "LOAD A,", ""].all (fun t => (assemble t.toList).isNone) = true := by
  decide

/-! ### Instructions and commands: the vectors of section 2 -/

/-- A machine with the given registers and flags. -/
def machine (a b f : Byte) : State :=
  { State.reset with regA := a, regB := b, flags := f }

/-- `t` shows the registers, flags and response given. -/
def shows (x : StepResult) (a b f : Byte) (r : Response) : Bool :=
  match x with
  | .next t => t.regA == a && t.regB == b && t.flags == f && t.response? == some r
  | _ => false

/-- One step of the word `w` from `A B F` shows the response and the end state, and the sub-blocks say the same. -/
def vector (a b f : Byte) (w : Nat) (r : Response) (a' b' f' : Byte) : Bool :=
  shows (step ((machine a b f).withFetchWord 24 w)) a' b' f' r &&
    transact (.exec (BitVec.ofNat 24 w)) ⟨a, b, f⟩ == (⟨a', b', f'⟩, r)

theorem test_load_vectors :
    [vector 0x00 0x00 0x00 0x24002A .ok 0x2A 0x00 0x00, vector 0x11 0x22 0x03 0x240100 .ok 0x11 0x00 0x03,
     vector 0x05 0x06 0x01 0x2400FF .ok 0xFF 0x06 0x01, vector 0x2A 0x00 0x02 0x24002A .ok 0x2A 0x00 0x02,
     vector 0x01 0x02 0x03 0x240180 .ok 0x01 0x80 0x03].all id = true := by decide

theorem test_load_error_vectors :
    [vector 1 2 3 0x000000 (.missing .first) 1 2 3, vector 1 2 3 0x100100 (.missing .second) 1 2 3,
     vector 1 2 3 0x180900 (.mismatched .first) 1 2 3, vector 1 2 3 0x200000 (.mismatched .second) 1 2 3,
     vector 1 2 3 0x200001 (.mismatched .second) 1 2 3, vector 1 2 3 0x2C0506 (.mismatched .first) 1 2 3,
     vector 1 2 3 0x280501 (.mismatched .first) 1 2 3].all id = true := by decide

theorem test_add_vectors :
    [vector 0x00 0x00 0x03 0x640000 .ok 0x00 0x00 0x02, vector 0xFF 0x00 0x00 0x640001 .ok 0x00 0x00 0x03,
     vector 0xFF 0x00 0x00 0x6400FF .ok 0xFE 0x00 0x01, vector 0x80 0x00 0x00 0x640080 .ok 0x00 0x00 0x03,
     vector 0x7F 0x00 0x03 0x640080 .ok 0xFF 0x00 0x00, vector 0x33 0x01 0x00 0x6401FF .ok 0x33 0x00 0x03,
     vector 0x64 0x00 0x00 0x64009D .ok 0x01 0x00 0x01] ++
    [vector 0x04 0x26 0x00 0x600001 .ok 0x2A 0x26 0x00, vector 0x04 0x26 0x00 0x600100 .ok 0x04 0x2A 0x00,
     vector 0x80 0x00 0x00 0x600000 .ok 0x00 0x00 0x03, vector 0x7F 0x00 0x03 0x600000 .ok 0xFE 0x00 0x00,
     vector 0xFF 0xFF 0x00 0x600001 .ok 0xFE 0xFF 0x01, vector 0x00 0x00 0x01 0x600001 .ok 0x00 0x00 0x02] |>.all id := by
  decide

theorem test_add_error_and_illegal_vectors :
    [vector 1 2 1 0x400000 (.missing .first) 1 2 1, vector 1 2 1 0x500000 (.missing .second) 1 2 1,
     vector 1 2 1 0x580100 (.mismatched .first) 1 2 1, vector 1 2 1 0x680100 (.mismatched .first) 1 2 1,
     vector 1 2 1 0x6C0102 (.mismatched .first) 1 2 1] ++
    [vector 1 2 3 0x800000 .illegal 1 2 3, vector 1 2 3 0xE4002A .illegal 1 2 3, vector 1 2 3 0x74002A .illegal 1 2 3,
     vector 1 2 3 0x65002A .illegal 1 2 3, vector 1 2 3 0x600002 .illegal 1 2 3,
     vector 1 2 3 0x4CFFFF (.missing .first) 1 2 3, vector 1 2 3 0x100002 (.missing .second) 1 2 3] |>.all id := by
  decide

/-- One step of a host command, driven on the port. -/
def hostVector (a b f : Byte) (c : Command) (a' b' f' : Byte) : Bool :=
  shows (step { machine a b f with inputs := [c.drive] }) a' b' f' .ok && transact c ⟨a, b, f⟩ == (⟨a', b', f'⟩, .ok)

theorem test_host_vectors :
    [hostVector 1 2 0 (.writeReg .a 0x5A#8) 0x5A 2 0, hostVector 1 2 0 (.writeReg .b 0x00#8) 1 0 0,
     hostVector 0 0 0 (.writeFlag .carry true) 0 0 1, hostVector 0 0 1 (.writeFlag .carry true) 0 0 1,
     hostVector 0 0 3 (.writeFlag .carry false) 0 0 2, hostVector 0 0 2 (.writeFlag .carry false) 0 0 2,
     hostVector 0 0 1 (.writeFlag .zero true) 0 0 3, hostVector 0xAB 0xCD 3 .reset 0 0 0].all id = true := by decide

/-- R171: `rst` drops the LOAD presented in its cycle. -/
theorem test_rst_drops_command :
    step { machine 1 2 3 with inputs := [{ (Command.exec 0x24002A#24).drive with rst := true }] } = .next State.reset := by
  rfl

/-! ### Witnesses: states and operands that meet the hypotheses of the statements -/

theorem witness_ResetMachineReadsZero :
    (∃ p s t, p.rst = true ∧ clockEdge p s = .next t) ∧ (∃ s t, runCommand .reset s = .next t) :=
  ⟨⟨PortIn.resetPin, machine 1 2 3, _, rfl, rfl⟩, machine 1 2 3, _, rfl⟩

theorem witness_BootNeedsOneReset : PortIn.resetPin.rst = true := rfl

/-- Two states with equal registers and different flags, on both of which an ADD succeeds. -/
theorem witness_AddIgnoresEarlierFlags :
    ∃ s s' t t' : State, s.flags ≠ s'.flags ∧ s.regA = s'.regA ∧ s.regB = s'.regB ∧
      exec (.add [.reg .a, .reg .b]) s = .next t ∧ exec (.add [.reg .a, .reg .b]) s' = .next t' ∧ t.rspStatus = 0b00#2 :=
  ⟨machine 1 2 3, machine 1 2 0, _, _, by decide, rfl, rfl, rfl, rfl, rfl⟩

theorem witness_AddOverwritesBothFlags :
    upperFlags (machine 1 2 3).flags = 0#6 ∧
    ∃ t, exec (.add []) (machine 1 2 3) = .next t ∧ t.rspStatus ≠ 0b00#2 :=
  ⟨by decide, _, rfl, by decide⟩

theorem witness_InstructionFrame :
    (∃ t, exec (.load [.reg .a, .byte 7#8]) (machine 1 2 3) = .next t) ∧
    (∃ t, exec (.add [.reg .a, .reg .b]) (machine 1 2 3) = .next t) ∧
    [Operand.reg RegId.a, .reg .b][0]? ≠ some (.reg .b) :=
  ⟨⟨_, rfl⟩, ⟨_, rfl⟩, by decide⟩

theorem witness_ErrorsChangeNoState :
    ∃ t, runCommand (.exec 0x400000#24) (machine 1 2 3) = .next t ∧ t.rspStatus ≠ 0b00#2 :=
  ⟨_, rfl, by decide⟩

theorem witness_IllegalWordsAnswerIllegal : decode 0x24022A#24 = .illegal .reservedRegister := by decide

theorem witness_ResponseCodes : ∀ w, Command.reset ≠ .exec w := by intro w h; cases h

theorem witness_MessagesRecoveredFromCodes :
    ∃ t, runCommand (.exec 0x200000#24) (machine 1 2 3) = .next t ∧ AnswersWith t (.mismatched .second) :=
  ⟨_, rfl, rfl, rfl, rfl⟩

/-- The extreme operand values. -/
theorem witness_DecodeOfEncode : Instr.wf (.load [.byte 0xFF#8, .byte 0x00#8]) = true ∧ Instr.wf (.add []) = true := by
  decide

theorem witness_EncodeOfDecode : decode 0x4CFFFF#24 = .instr (.add []) ∧
    decode 0x1401FF#24 = .instr (.load [.reg .b]) ∧ decode 0x6C00FF#24 = .instr (.add [.byte 0x00#8, .byte 0xFF#8]) := by
  decide

/-- Words on both sides of each clause: register codes 0x01 and 0x02 at both positions. -/
theorem witness_OpcodeMap : decode 0x200101#24 = .instr (.load [.reg .b, .reg .b]) ∧
    decode 0x600101#24 = .instr (.add [.reg .b, .reg .b]) ∧ decode 0x600201#24 = .illegal .reservedRegister ∧
    decode 0x600102#24 = .illegal .reservedRegister := by decide

theorem witness_AssembledWordsAreLegal : assemble ['A', 'D', 'D', ' ', 'A'] = some 0x500000#24 := by decide

theorem witness_PortPresentsCommands :
    (Command.exec 0#24).drive.cmdOp = 0b00#2 ∧
    (Command.writeReg .a 1#8).drive.cmdOp = 0b01#2 ∧ (Command.writeReg .a 1#8).drive.wrRegId = 0#1 ∧
    (Command.writeReg .b 1#8).drive.cmdOp = 0b01#2 ∧ (Command.writeReg .b 1#8).drive.wrRegId = 1#1 ∧
    (Command.writeFlag .carry true).drive.cmdOp = 0b10#2 ∧ (Command.writeFlag .carry true).drive.wrFlagPos = 0#1 ∧
    (Command.writeFlag .zero true).drive.cmdOp = 0b10#2 ∧ (Command.writeFlag .zero true).drive.wrFlagPos = 1#1 ∧
    Command.reset.drive.cmdOp = 0b11#2 := by decide

/-- Two different inputs that agree on what a WRITE_REG uses. -/
theorem witness_UnusedInputsIgnored :
    ∃ p q : PortIn, p ≠ q ∧ p.rst = q.rst ∧ p.rst = false ∧ p.cmdValid = q.cmdValid ∧ p.cmdValid = true ∧
      p.cmdOp = q.cmdOp ∧ p.cmdOp = 0b01#2 ∧ p.wrRegId = q.wrRegId ∧ p.wrData = q.wrData :=
  ⟨(Command.writeReg .b 9#8).drive, { (Command.writeReg .b 9#8).drive with instr := 0xFFFFFF#24 }, by decide⟩

theorem witness_EdgeTakesAtMostTheOneCommand :
    PortIn.idle.rst = false ∧ PortIn.idle.cmdValid = false ∧
    (Command.reset).drive.rst = false ∧ (Command.reset).drive.cmdValid = true := by decide

theorem witness_FlagsChangeOnlyByAddWriteFlagOrReset :
    ∃ t, clockEdge (Command.exec 0x600001#24).drive (machine 0xFF 0x01 0x00) = .next t ∧ t.flags ≠ 0x00#8 :=
  ⟨_, rfl, by decide⟩

theorem witness_RegisterChangesOnlyByItsWriters :
    ∃ t, clockEdge (Command.exec 0x24002A#24).drive (machine 1 2 3) = .next t ∧ t.readReg .a ≠ 0x01#8 :=
  ⟨_, rfl, by decide⟩

theorem witness_StepRunsTheDecodedInstruction :
    ∃ p : PortIn, p.rst = false ∧ p.cmdValid = true ∧ p.cmdOp = 0b00#2 ∧ decode p.instr = .instr (.add [.reg .a, .reg .b]) ∧
      (0x600001 : Nat) < 2 ^ 24 ∧ decode (BitVec.ofNat 24 0x600001) = .instr (.add [.reg .a, .reg .b]) :=
  ⟨(Command.exec 0x600001#24).drive, by decide⟩

/-- The invariant holds, and a step is taken, in a state that is not the reset state. -/
theorem witness_StepKeepsInvariant :
    Inv ((machine 0x80 2 3).withFetchWord 24 0x600000) ∧
    ∃ t, step ((machine 0x80 2 3).withFetchWord 24 0x600000) = .next t :=
  ⟨⟨(by decide : upperFlags 3#8 = 0#6), fun h => by cases h⟩, _, rfl⟩

theorem witness_RunRefinesTransactions :
    { machine 1 2 3 with inputs := [PortIn.idle, Command.reset.drive, PortIn.resetPin] }.inputs =
      [PortIn.idle, Command.reset.drive] ++ [PortIn.resetPin] := rfl

theorem witness_AddSeesTheLoadBeforeIt :
    { machine 1 2 3 with
      inputs := [(Command.exec (encode (.load [.reg .a, .byte 5#8]))).drive,
        (Command.exec (encode (.add [.reg .b, .reg .a]))).drive] }.inputs =
      (Command.exec (encode (.load [.reg .a, .byte 5#8]))).drive ::
        (Command.exec (encode (.add [.reg .b, .reg .a]))).drive :: [] := rfl

theorem witness_DispatchEnablesOnlyOnOk :
    (instructionDispatch 0x400000#24 Arch.zero).response ≠ .ok ∧
    decode 0x24002A#24 = .instr (.load [.reg .a, .byte 42#8]) ∧ decode 0x600001#24 = .instr (.add [.reg .a, .reg .b]) ∧
    decode 0x64009D#24 = .instr (.add [.reg .a, .byte 157#8]) := by decide

end Sys2Proof.Machine.Tests
end

section
/-! SUPPORT. Which fields of a word its decoded operand list fixes, and what the sub-blocks answer to a word, by what the
decoder says of it. -/

namespace Sys2Proof

/-- The fields N, K1, V1, K2, V2 of `w` spell the operand list: those of the positions 1 .. N are the operands' own, the
others are free (R67). No word spells a list longer than two (R62). -/
def SpellsOperands (w : InstrWord) : List Operand → Prop
  | [] => countField w = 0#2
  | [o] => countField w = 1#2 ∧ kind1Field w = kindBit (some o) ∧ value1Field w = valueBits (some o)
  | [o, q] => countField w = 2#2 ∧ (kind1Field w = kindBit (some o) ∧ value1Field w = valueBits (some o)) ∧
      kind2Field w = kindBit (some q) ∧ value2Field w = valueBits (some q)
  | _ => False

/-- The four values of the operand count N. -/
theorem countField_cases (w : InstrWord) :
    countField w = 0#2 ∨ countField w = 1#2 ∨ countField w = 2#2 ∨ countField w = 3#2 := by
  generalize countField w = n
  revert n
  decide

theorem suppliedFields_zero {w : InstrWord} (h : countField w = 0#2) : suppliedFields w = [] := by
  simp [suppliedFields, h]

theorem suppliedFields_one {w : InstrWord} (h : countField w = 1#2) :
    suppliedFields w = [(kind1Field w, value1Field w)] := by
  simp [suppliedFields, h]

theorem suppliedFields_two {w : InstrWord} (h : countField w = 2#2) :
    suppliedFields w = [(kind1Field w, value1Field w), (kind2Field w, value2Field w)] := by
  simp [suppliedFields, h]

@[simp] theorem decodeOperands_nil : decodeOperands [] = some [] := rfl

/-- A nonempty list of fields is decoded exactly when its head and its tail are. -/
theorem decodeOperands_cons_eq_some {f : BitVec 1 × Byte} {fs : List (BitVec 1 × Byte)} {ops : List Operand} :
    decodeOperands (f :: fs) = some ops ↔
      ∃ o os, decodeOperand f = some o ∧ decodeOperands fs = some os ∧ ops = o :: os := by
  simp only [decodeOperands]
  cases decodeOperand f <;> cases decodeOperands fs <;> simp [eq_comm]

/-- A nonempty list of fields is rejected exactly when its head or its tail is. -/
theorem decodeOperands_cons_eq_none {f : BitVec 1 × Byte} {fs : List (BitVec 1 × Byte)} :
    decodeOperands (f :: fs) = none ↔ decodeOperand f = none ∨ decodeOperands fs = none := by
  simp only [decodeOperands]
  cases decodeOperand f <;> cases decodeOperands fs <;> simp

/-- The operands of a word that decodes are spelled by its fields. -/
theorem spellsOperands_of_decode {w : InstrWord} {i : Instr} (h : decode w = .instr i) :
    SpellsOperands w i.operands := by
  obtain ⟨-, hn, -, hops⟩ := decode_eq_instr h
  generalize i.operands = ops at hops ⊢
  rcases countField_cases w with h0 | h1 | h2 | h3
  · rw [suppliedFields_zero h0] at hops
    cases hops
    exact h0
  · rw [suppliedFields_one h1, decodeOperands_cons_eq_some] at hops
    obtain ⟨o, _, ho, ⟨⟩, rfl⟩ := hops
    exact ⟨h1, decodeOperand_eq_some ho⟩
  · rw [suppliedFields_two h2, decodeOperands_cons_eq_some] at hops
    obtain ⟨o, _, ho, hos, rfl⟩ := hops
    obtain ⟨q, _, hq, ⟨⟩, rfl⟩ := decodeOperands_cons_eq_some.1 hos
    exact ⟨h2, decodeOperand_eq_some ho, decodeOperand_eq_some hq⟩
  · exact absurd h3 hn

/-- All codes but those of A and B are reserved (R66). -/
theorem regOfCode?_eq_none {v : Byte} : regOfCode? v = none ↔ v ≠ 0x00#8 ∧ v ≠ 0x01#8 := by
  unfold regOfCode?
  split
  · next h => simp [h]
  · next h0 =>
    split
    · next h => simp [h]
    · next h1 => exact iff_of_true rfl ⟨h0, h1⟩

/-- Of the four values of OP two select an instruction (R61). -/
theorem instrOfOp?_eq_none {op : BitVec 2} : instrOfOp? op = none ↔ op = 0b10#2 ∨ op = 0b11#2 := by
  revert op
  decide

end Sys2Proof

namespace Sys2Proof.Machine

/-! ### The sub-blocks' ILLEGAL and the decoder's -/

/-- An operand is rejected exactly when its field is a reserved register code (R66). -/
theorem decodeOperand_eq_none {k : BitVec 1} {v : Byte} :
    decodeOperand (k, v) = none ↔ reservedRegisterField k v = true := by
  have zero_or_one : ∀ b : BitVec 1, b = 0#1 ∨ b = 1#1 := by decide
  rcases zero_or_one k with rfl | rfl
  · simp [decodeOperand, reservedRegisterField, regOfCode?_eq_none]
  · simp [decodeOperand, reservedRegisterField]

/-- The fields of an operand hold no reserved register code. -/
@[simp] theorem reservedRegisterField_operand (o : Operand) :
    reservedRegisterField (kindBit (some o)) (valueBits (some o)) = false := by
  rw [← Bool.not_eq_true, ← decodeOperand_eq_none, decodeOperand_fields]
  simp

/-- Every word the decoder rejects, for whichever of its four reasons, is ILLEGAL by the rows of R69. -/
theorem illegalWord_of_decode_illegal {w : InstrWord} {why : IllegalEncoding} (h : decode w = .illegal why) :
    illegalWord w = true := by
  unfold decode at h
  split at h
  · next hop =>
    rcases instrOfOp?_eq_none.1 hop with h | h <;> simp [illegalWord, h]
  split at h
  · next hn => simp [illegalWord, hn]
  split at h
  · next hr => simp [illegalWord, hr]
  split at h
  · next hn3 _ _ hops =>
    rcases countField_cases w with h0 | h1 | h2 | h3
    · simp [suppliedFields_zero h0] at hops
    · simp [suppliedFields_one h1, decodeOperands_cons_eq_none, decodeOperand_eq_none] at hops
      simp [illegalWord, h1, hops]
    · simp [suppliedFields_two h2, decodeOperands_cons_eq_none, decodeOperand_eq_none] at hops
      rcases hops with h | h <;> simp [illegalWord, h2, h]
    · exact absurd h3 hn3
  · cases h

/-- No word that decodes is ILLEGAL by the rows of R69. -/
theorem illegalWord_of_decode_instr {w : InstrWord} {i : Instr} (h : decode w = .instr i) : illegalWord w = false := by
  obtain ⟨hop, -, hr, -⟩ := decode_eq_instr h
  have op_legal : i.op ≠ 0b10#2 ∧ i.op ≠ 0b11#2 := by cases i <;> exact ⟨nofun, nofun⟩
  have spelled := spellsOperands_of_decode h
  generalize i.operands = ops at spelled
  match ops, spelled with
  | [], hn => simp [illegalWord, hop, op_legal, hr, show countField w = 0#2 from hn]
  | [o], ⟨hn, hk, hv⟩ => simp [illegalWord, hop, op_legal, hr, hn, hk, hv]
  | [o, q], ⟨hn, ⟨hk, hv⟩, hk2, hv2⟩ => simp [illegalWord, hop, op_legal, hr, hn, hk, hv, hk2, hv2]

end Sys2Proof.Machine
end

section
/-! SUPPORT. The transactional function on each command: what it answers and what it commits, in the words of the decoder
and of the machine's own updates. -/

namespace Sys2Proof.Machine

/-! ### The response to a word, by the operand list decoded from it (R151, R155) -/

section Response

variable {w : InstrWord} {i : Instr} {r q : RegId} {v : Byte}

/-- Decode comes first: a word it rejects is answered ILLEGAL. -/
theorem responseToWord_illegal {why : IllegalEncoding} (h : decode w = .illegal why) : responseToWord w = .illegal := by
  simp [responseToWord, illegalWord_of_decode_illegal h]

theorem responseToWord_nil (h : decode w = .instr i) (hops : i.operands = []) :
    responseToWord w = .missing .first := by
  have hn : countField w = 0#2 := by simpa [hops, SpellsOperands] using spellsOperands_of_decode h
  simp [responseToWord, illegalWord_of_decode_instr h, hn]

theorem responseToWord_byte {ops : List Operand} (h : decode w = .instr i) (hops : i.operands = .byte v :: ops) :
    responseToWord w = .mismatched .first := by
  have spelled := hops ▸ spellsOperands_of_decode h
  have hk : countField w ≠ 0#2 ∧ kind1Field w = 1#1 := by
    match ops, spelled with
    | [], ⟨hn, hk, _⟩ => exact ⟨by simp [hn], hk⟩
    | [_], ⟨hn, ⟨hk, _⟩, _⟩ => exact ⟨by simp [hn], hk⟩
  simp [responseToWord, illegalWord_of_decode_instr h, hk]

theorem responseToWord_reg (h : decode w = .instr i) (hops : i.operands = [.reg r]) :
    responseToWord w = .missing .second := by
  obtain ⟨hn, hk, -⟩ : SpellsOperands w [.reg r] := hops ▸ spellsOperands_of_decode h
  simp [responseToWord, illegalWord_of_decode_instr h, hn, hk, kindBit]

theorem responseToWord_load_reg_reg (h : decode w = .instr (.load [.reg r, .reg q])) :
    responseToWord w = .mismatched .second := by
  obtain ⟨hop, -⟩ := decode_eq_instr h
  obtain ⟨hn, ⟨hk1, -⟩, hk2, -⟩ := spellsOperands_of_decode h
  simp [responseToWord, illegalWord_of_decode_instr h, hop, Instr.op, hn, hk1, hk2, kindBit]

theorem responseToWord_load_reg_byte (h : decode w = .instr (.load [.reg r, .byte v])) : responseToWord w = .ok := by
  obtain ⟨hn, ⟨hk1, -⟩, hk2, -⟩ := spellsOperands_of_decode h
  simp [responseToWord, illegalWord_of_decode_instr h, hn, hk1, hk2, kindBit]

theorem responseToWord_add_reg {o : Operand} (h : decode w = .instr (.add [.reg r, o])) : responseToWord w = .ok := by
  obtain ⟨hop, -⟩ := decode_eq_instr h
  obtain ⟨hn, ⟨hk1, -⟩, -⟩ := spellsOperands_of_decode h
  simp [responseToWord, illegalWord_of_decode_instr h, hop, Instr.op, hn, hk1, kindBit]

end Response

/-! ### The outputs of `instruction_dispatch` (R110) -/

section Dispatch

variable (w : InstrWord) (m : Arch)

@[simp] theorem instructionDispatch_response : (instructionDispatch w m).response = responseToWord w := rfl
@[simp] theorem instructionDispatch_rfWe : (instructionDispatch w m).rfWe = (responseToWord w == .ok) := rfl
@[simp] theorem instructionDispatch_rfWa : (instructionDispatch w m).rfWa = regOfValueField (value1Field w) := rfl
@[simp] theorem instructionDispatch_flWe :
    (instructionDispatch w m).flWe = (responseToWord w == .ok && opField w == 0b01#2) := rfl
@[simp] theorem instructionDispatch_aluA :
    (instructionDispatch w m).aluA = m.read (regOfValueField (value1Field w)) := rfl
@[simp] theorem instructionDispatch_flC :
    (instructionDispatch w m).flC = (alu (instructionDispatch w m).aluA (instructionDispatch w m).aluB).c := rfl
@[simp] theorem instructionDispatch_flZ :
    (instructionDispatch w m).flZ = (alu (instructionDispatch w m).aluA (instructionDispatch w m).aluB).z := rfl

/-- For ADD the register write port carries the ALU's sum. -/
theorem instructionDispatch_rfWd_add (h : opField w = 0b01#2) :
    (instructionDispatch w m).rfWd = (alu (instructionDispatch w m).aluA (instructionDispatch w m).aluB).sum8 := by
  simp [instructionDispatch, h]

/-- For LOAD the register write port carries the immediate. -/
theorem instructionDispatch_rfWd_load (h : opField w = 0b00#2) : (instructionDispatch w m).rfWd = value2Field w := by
  simp [instructionDispatch, h]

/-- The ALU's second input is an immediate operand's value. -/
theorem instructionDispatch_aluB_byte {v : Byte} (hk : kind2Field w = kindBit (some (.byte v)))
    (hv : value2Field w = valueBits (some (.byte v))) : (instructionDispatch w m).aluB = v := by
  simp [instructionDispatch, hk, hv, kindBit, valueBits]

/-- The ALU's second input is the value of a register operand. -/
theorem instructionDispatch_aluB_reg {q : RegId} (hk : kind2Field w = kindBit (some (.reg q)))
    (hv : value2Field w = valueBits (some (.reg q))) : (instructionDispatch w m).aluB = m.read q := by
  simp [instructionDispatch, hk, hv, kindBit, valueBits]

end Dispatch

/-! ### The machine's updates in the transactional view -/

theorem State.arch_writeReg (s : State) (r : RegId) (v : Byte) :
    (s.writeReg r v).arch =
      { a := if r = .a then v else s.regA, b := if r = .b then v else s.regB, f := s.flags } := by
  cases r <;> rfl

/-- ADD's three writes at once, F in the form of R132. -/
theorem State.arch_addInto (s : State) (r : RegId) (b : Byte) :
    (s.addInto r b).arch =
      { a := if r = .a then (alu (s.readReg r) b).sum8 else s.regA
        b := if r = .b then (alu (s.readReg r) b).sum8 else s.regB
        f := (s.flags &&& 0xFC#8) ||| (bitByte (alu (s.readReg r) b).z <<< 1) ||| bitByte (alu (s.readReg r) b).c } := by
  simp [State.arch, State.addInto, setFlagBit_carry_zero]

/-- A write of the Carry flag with its mask written out. -/
theorem setFlagBit_carry (f : Byte) (b : Bool) : setFlagBit f .carry b = (f &&& 0xFE#8) ||| bitByte b := by
  cases b <;> rfl

/-- A write of the Zero flag with its mask written out. -/
theorem setFlagBit_zero (f : Byte) (b : Bool) : setFlagBit f .zero b = (f &&& 0xFD#8) ||| (bitByte b <<< 1) := by
  cases b <;> rfl

/-- The transactional WRITE_FLAG is the machine's flag write. -/
theorem transact_writeFlag (s : State) (p : FlagPos) (b : Bool) :
    transact (.writeFlag p b) s.arch = ((s.writeFlag p b).arch, .ok) := by
  cases p <;> simp [transact, State.arch, setFlagBit_carry, setFlagBit_zero]

/-- The transactional WRITE_REG is the machine's register write. -/
theorem transact_writeReg (s : State) (r : RegId) (v : Byte) :
    transact (.writeReg r v) s.arch = ((s.writeReg r v).arch, .ok) := by
  cases r <;> rfl

/-! ### EXEC -/

section Exec

variable {w : InstrWord} {r : RegId}

/-- A word that is not answered OK enables no write. -/
theorem transact_exec_error {x : Response} (m : Arch) (hx : x ≠ .ok) (h : responseToWord w = x) :
    transact (.exec w) m = (m, x) := by
  simp [transact, Arch.commit, h, hx]

/-- LOAD of a byte commits what the machine's register write does. -/
theorem transact_exec_load {v : Byte} (s : State) (h : decode w = .instr (.load [.reg r, .byte v])) :
    transact (.exec w) s.arch = ((s.writeReg r v).arch, .ok) := by
  obtain ⟨hop, -⟩ := decode_eq_instr h
  obtain ⟨-, ⟨-, hv1⟩, -, hv2⟩ := spellsOperands_of_decode h
  have wa : regOfValueField (value1Field w) = r := by simp [hv1, valueBits]
  have wd : (instructionDispatch w s.arch).rfWd = v := (instructionDispatch_rfWd_load w _ hop).trans hv2
  simp [transact, Arch.commit, responseToWord_load_reg_byte h, wa, wd, hop, Instr.op, State.arch_writeReg]

/-- ADD commits what the machine's addition of the ALU's second input `b` does. -/
theorem transact_exec_add {o : Operand} {b : Byte} (s : State) (h : decode w = .instr (.add [.reg r, o]))
    (hb : (instructionDispatch w s.arch).aluB = b) :
    transact (.exec w) s.arch = ((s.addInto r b).arch, .ok) := by
  obtain ⟨hop, -⟩ := decode_eq_instr h
  obtain ⟨-, ⟨-, hv1⟩, -⟩ := spellsOperands_of_decode h
  have wa : regOfValueField (value1Field w) = r := by simp [hv1, valueBits]
  simp [transact, Arch.commit, responseToWord_add_reg h, wa, instructionDispatch_rfWd_add w _ hop, hb, hop,
    Instr.op, State.arch_addInto]

end Exec

end Sys2Proof.Machine
end

section
/-! PROOFS. The clocked machine refines the transactional function: at a command, at an edge, over a run. -/

namespace Sys2Proof.Machine

/-- An outcome of the clocked machine realizes an answer of the transactional one: it is a next state, with the answer's
registers and F, and it shows the answer's response. -/
def Realizes (out : StepResult) (answer : Arch × Option Response) : Prop :=
  ∃ t, out = .next t ∧ t.arch = answer.1 ∧ t.response? = answer.2

/-- The code of a response stands for that response (R87). -/
@[simp] theorem responseOfCode?_status_pos (x : Response) : responseOfCode? x.status x.pos = some x := by
  cases x with
  | ok => rfl
  | missing p => cases p <;> rfl
  | mismatched p => cases p <;> rfl
  | illegal => rfl

/-- A registered response is the one the port shows. -/
@[simp] theorem State.response?_respond (s : State) (x : Response) : (s.respond x).response? = some x := by
  simp [State.response?]

/-- Ending a command with the response `x` realizes the pair of the state before the response and `x`. -/
theorem realizes_respond {s : State} {answer : Arch × Response} {x : Response} (h : answer = (s.arch, x)) :
    Realizes (.next (s.respond x)) (answer.1, some answer.2) := by
  subst h
  exact ⟨_, rfl, s.arch_respond x, s.response?_respond x⟩

/-- A LOAD does what the sub-blocks do on any word that decodes to it. -/
theorem execLoad_realizes {w : InstrWord} {ops : List Operand} (s : State) (h : decode w = .instr (.load ops)) :
    Realizes (execLoad ops s) ((transact (.exec w) s.arch).1, some (transact (.exec w) s.arch).2) := by
  match ops, spellsOperands_of_decode h with
  | [], _ => exact realizes_respond (transact_exec_error _ (by decide) (responseToWord_nil h rfl))
  | .byte _ :: _, _ => exact realizes_respond (transact_exec_error _ (by decide) (responseToWord_byte h rfl))
  | [.reg _], _ => exact realizes_respond (transact_exec_error _ (by decide) (responseToWord_reg h rfl))
  | [.reg _, .reg _], _ => exact realizes_respond (transact_exec_error _ (by decide) (responseToWord_load_reg_reg h))
  | [.reg _, .byte _], _ => exact realizes_respond (transact_exec_load s h)

/-- An ADD does what the sub-blocks do on any word that decodes to it. -/
theorem execAdd_realizes {w : InstrWord} {ops : List Operand} (s : State) (h : decode w = .instr (.add ops)) :
    Realizes (execAdd ops s) ((transact (.exec w) s.arch).1, some (transact (.exec w) s.arch).2) := by
  match ops, spellsOperands_of_decode h with
  | [], _ => exact realizes_respond (transact_exec_error _ (by decide) (responseToWord_nil h rfl))
  | .byte _ :: _, _ => exact realizes_respond (transact_exec_error _ (by decide) (responseToWord_byte h rfl))
  | [.reg _], _ => exact realizes_respond (transact_exec_error _ (by decide) (responseToWord_reg h rfl))
  | [.reg _, .byte _], ⟨_, _, hk, hv⟩ =>
    exact realizes_respond (transact_exec_add s h (instructionDispatch_aluB_byte w _ hk hv))
  | [.reg _, .reg q], ⟨_, _, hk, hv⟩ =>
    have hb := (instructionDispatch_aluB_reg w s.arch hk hv).trans (Arch.read_arch s q)
    exact realizes_respond (transact_exec_add s h hb)

/-- An accepted command does what the transactional function does (R86). -/
theorem runCommand_realizes (c : Command) (s : State) :
    Realizes (runCommand c s) ((transact c s.arch).1, some (transact c s.arch).2) := by
  cases c with
  | writeReg r v => exact realizes_respond (transact_writeReg s r v)
  | writeFlag p b => exact realizes_respond (transact_writeFlag s p b)
  | reset => exact realizes_respond rfl
  | exec w =>
    simp only [runCommand, execWord]
    split
    · next h => exact realizes_respond (transact_exec_error _ (by decide) (responseToWord_illegal h))
    · next i h =>
      cases i with
      | load ops => exact execLoad_realizes s h
      | add ops => exact execAdd_realizes s h

/-- An edge does what the transactional edge does: reset, a command, or nothing (R171, R176). -/
theorem clockEdge_realizes (p : PortIn) (s : State) : Realizes (clockEdge p s) (transactEdge p s.arch) := by
  unfold clockEdge transactEdge
  split
  · exact ⟨_, rfl, s.arch_resetEdge, rfl⟩
  · split
    · exact runCommand_realizes p.command s
    · exact ⟨_, rfl, s.arch_idleEdge, rfl⟩

/-- Settles O43: one case for each kind of edge, and for EXEC one for each shape of the decoded operand list. -/
theorem edgeRefinesTransaction : Obligations.EdgeRefinesTransaction :=
  clockEdge_realizes

/-! ### Runs -/

/-- A command takes nothing from the host's queue. -/
theorem runCommand_inputs {c : Command} {s t : State} (h : runCommand c s = .next t) : t.inputs = s.inputs := by
  rcases runCommand_cases h with ⟨_, _, _, _, rfl⟩ | ⟨_, _, _, _, _, _, _, rfl⟩ | ⟨_, _, _, _, _, _, _, rfl⟩ |
    ⟨_, _, _, rfl⟩ | ⟨_, _, _, rfl⟩ | ⟨_, rfl⟩ <;> simp

/-- An edge takes nothing from the host's queue: `step` has taken the edge's input off it already. -/
theorem clockEdge_inputs {p : PortIn} {s t : State} (h : clockEdge p s = .next t) : t.inputs = s.inputs := by
  rcases clockEdge_cases h with ⟨_, rfl⟩ | ⟨_, _, hc⟩ | ⟨_, _, rfl⟩
  · exact s.resetEdge_inputs
  · exact runCommand_inputs hc
  · exact s.idleEdge_inputs

/-- A run whose first step is completed goes on from the state after it. -/
theorem core_run_succ {s t : State} (k : Nat) (h : step s = .next t) : core.run (k + 1) s = core.run k t := by
  simp [Host.Core.run, core, h]

/-- What the host reads in such a run: the response after the first step, then the rest. -/
theorem responseTrace_succ {s t : State} (k : Nat) (h : step s = .next t) :
    responseTrace (k + 1) s = t.response? :: responseTrace k t := by
  simp [responseTrace, h]

/-- Settles O44, by induction on the inputs: the first is one edge, by `clockEdge_realizes`. -/
theorem runRefinesTransactions : Obligations.RunRefinesTransactions := by
  intro ps rest
  induction ps with
  | nil => intro s hq; exact ⟨s, rfl, rfl, hq, rfl⟩
  | cons p ps ih =>
    intro s hq
    obtain ⟨u, hu, arch_u, shown_u⟩ := clockEdge_realizes p { s with inputs := ps ++ rest }
    have stepped : step s = .next u := (step_cons hq).trans hu
    obtain ⟨t, ht, arch_t, inputs_t, shown_t⟩ := ih u (clockEdge_inputs hu)
    refine ⟨t, (core_run_succ _ stepped).trans ht, ?_, inputs_t, ?_⟩
    · rw [arch_t, arch_u]; rfl
    · rw [List.length_cons, responseTrace_succ _ stepped, shown_t, shown_u, arch_u]; rfl

end Sys2Proof.Machine
end

section
/-! SUPPORT. The rules of `addInto`, of F[7:2] and of instruction errors that the statements about the state need. -/

namespace Sys2Proof.Machine

/-- WRITE_FLAG and ADD reach F only through `setFlagBit`, so neither can reach F[7:2] (R27). -/
@[simp] theorem upperFlags_setFlagBit (f : Byte) (p : FlagPos) (b : Bool) :
    upperFlags (setFlagBit f p b) = upperFlags f := setFlagBit_upper f p b

theorem upperFlags_zero : upperFlags 0x00#8 = 0#6 := by decide

@[simp] theorem State.readReg_idleEdge (s : State) (r : RegId) : s.idleEdge.readReg r = s.readReg r := by cases r <;> rfl

/-- A register that a write changes is the one written. -/
theorem State.eq_of_readReg_writeReg_ne {s : State} {r q : RegId} {v : Byte}
    (h : (s.writeReg r v).readReg q ≠ s.readReg q) : q = r :=
  not_imp_comm.1 (s.readReg_writeReg_other v) h

namespace State

variable (s : State) (r : RegId) (b : Byte)

@[simp] theorem addInto_flags : (s.addInto r b).flags =
    setFlagBit (setFlagBit s.flags .carry (alu (s.readReg r) b).c) .zero (alu (s.readReg r) b).z := by
  simp [addInto]

/-- An addition is, on the registers, the write of the ALU's sum. -/
@[simp] theorem readReg_addInto (q : RegId) :
    (s.addInto r b).readReg q = (s.writeReg r (alu (s.readReg r) b).sum8).readReg q := by
  simp [addInto]

@[simp] theorem flag_addInto_carry : (s.addInto r b).flag .carry = (alu (s.readReg r) b).c := by
  simp [flag, getFlagBit_setFlagBit]

@[simp] theorem flag_addInto_zero : (s.addInto r b).flag .zero = (alu (s.readReg r) b).z := by
  simp [flag, getFlagBit_setFlagBit]

end State

/-- The response to an instruction error is never OK (R104). -/
theorem InstrError.status_response_ne_ok (e : InstrError) : e.response.status ≠ 0b00#2 := by
  cases e <;> simp [InstrError.response, Response.status]

/-- Every state that a LOAD can answer. -/
theorem exec_load_eq_next {ops : List Operand} {s t : State} (h : exec (.load ops) s = .next t) :
    (∃ e : InstrError, t = s.respond e.response) ∨
      ∃ r v, ops[0]? = some (.reg r) ∧ t = (s.writeReg r v).respond .ok := by
  rcases execLoad_cases ops s with ⟨e, he⟩ | ⟨r, v, h0, -, he⟩ <;> cases he.symm.trans h
  · exact .inl ⟨e, rfl⟩
  · exact .inr ⟨r, v, h0, rfl⟩

/-- Every state that an ADD can answer. -/
theorem exec_add_eq_next {ops : List Operand} {s t : State} (h : exec (.add ops) s = .next t) :
    (∃ e : InstrError, t = s.respond e.response) ∨
      ∃ r b, ops[0]? = some (.reg r) ∧ t = (s.addInto r b).respond .ok := by
  rcases execAdd_cases ops s with ⟨e, -, he⟩ | ⟨r, b, h0, -, he⟩ <;> cases he.symm.trans h
  · exact .inl ⟨e, rfl⟩
  · exact .inr ⟨r, b, h0, rfl⟩

/-- An edge with `rst` = 1 is the reset edge, whatever command it presents (R171). -/
theorem clockEdge_of_rst {p : PortIn} (s : State) (h : p.rst = true) : clockEdge p s = .next s.resetEdge := by
  simp [clockEdge, h]

end Sys2Proof.Machine
end

section
/-! PROOFS. The invariant: it holds at reset and every step keeps it. -/

namespace Sys2Proof.Machine

/-- A registered response is one of the six pairs, so only F[7:2] is left to show after a command. -/
theorem inv_respond {s : State} (x : Response) (h : upperFlags s.flags = 0#6) : Inv (s.respond x) :=
  ⟨h, by simp⟩

/-- Without a response only F[7:2] is left to show. -/
theorem inv_of_no_response {s : State} (h : upperFlags s.flags = 0#6) (hv : s.rspValid = false) : Inv s :=
  ⟨h, by simp [hv]⟩

/-- A command establishes a legal response itself; of the state before it only F[7:2] = 0 is needed. -/
theorem runCommand_inv {c : Command} {s t : State} (upper : upperFlags s.flags = 0#6) (h : runCommand c s = .next t) :
    Inv t := by
  rcases runCommand_cases h with ⟨_, x, _, _, rfl⟩ | ⟨_, _, r, v, _, _, _, rfl⟩ | ⟨_, _, r, b, _, _, _, rfl⟩ |
    ⟨r, v, _, rfl⟩ | ⟨p, b, _, rfl⟩ | ⟨_, rfl⟩
  · exact inv_respond x upper
  · exact inv_respond .ok (by simpa using upper)
  · exact inv_respond .ok (by simpa using upper)
  · exact inv_respond .ok (by simpa using upper)
  · exact inv_respond .ok (by simpa using upper)
  · exact inv_respond .ok upperFlags_zero

/-- Every edge keeps the invariant. -/
theorem clockEdge_inv {p : PortIn} {s t : State} (hs : Inv s) (h : clockEdge p s = .next t) : Inv t := by
  obtain ⟨upper, -⟩ := hs
  rcases clockEdge_cases h with ⟨_, rfl⟩ | ⟨_, _, hc⟩ | ⟨_, _, rfl⟩
  · exact inv_of_no_response upperFlags_zero rfl
  · exact runCommand_inv upper hc
  · exact inv_of_no_response upper rfl

/-- Taking an input off the host's queue touches nothing that the invariant speaks of. -/
theorem inv_takeInput {s : State} (h : Inv s) : Inv s.takeInput := h

/-- Settles O41: a step is the edge with the next input, and each kind of edge keeps the invariant. -/
theorem stepKeepsInvariant : Obligations.StepKeepsInvariant :=
  fun _ _ hs h => clockEdge_inv (inv_takeInput hs) h

/-- Settles O42: F is 0 and `rsp_valid` is 0 at reset. -/
theorem resetSatisfiesInvariant : Obligations.ResetSatisfiesInvariant :=
  inv_of_no_response upperFlags_zero rfl

end Sys2Proof.Machine
end

section
/-! PROOFS. What reset leaves (R34, R84, R170, R171). -/

namespace Sys2Proof.Machine

theorem zeroCore_clearCore (s : State) : ZeroCore s.clearCore := ⟨rfl, rfl, rfl⟩

/-- Settles O2: the reset state, the `rst` pin and the RESET command one after the other. -/
theorem resetClearsRegistersFlagsAndResponse : Obligations.ResetClearsRegistersFlagsAndResponse := by
  refine ⟨⟨⟨rfl, rfl, rfl⟩, rfl, rfl, rfl⟩, fun p s hr => ?rst, fun s => ?command⟩
  case rst => exact ⟨_, clockEdge_of_rst s hr, zeroCore_clearCore s, rfl, rfl, rfl⟩
  case command => exact ⟨_, rfl, zeroCore_clearCore s, rfl, rfl, rfl⟩

end Sys2Proof.Machine
end

section
/-! PROOFS. Who writes F and the registers: the frame of the instructions, and the writers at an edge (R21, R25, R26). -/

namespace Sys2Proof.Machine

/-- A register that position 1 does not name keeps its value when the register that position 1 names is written. -/
theorem readReg_writeReg_unnamed {ops : List Operand} {r q : RegId} (s : State) (v : Byte)
    (named : ops[0]? = some (.reg r)) (hq : ops[0]? ≠ some (.reg q)) : (s.writeReg r v).readReg q = s.readReg q :=
  s.readReg_writeReg_other v fun h => hq (h ▸ named)

/-- Settles O14: an error writes nothing, a success writes the register of position 1 and, for ADD, two bits of F. -/
theorem instructionFrame : Obligations.InstructionFrame := by
  refine ⟨fun ops s t h => ?load, fun ops s t h => ?add⟩
  case load =>
    rcases exec_load_eq_next h with ⟨e, rfl⟩ | ⟨r, v, named, rfl⟩
    · simp
    · exact ⟨fun q hq => by simpa using readReg_writeReg_unnamed s v named hq, by simp, rfl⟩
  case add =>
    rcases exec_add_eq_next h with ⟨e, rfl⟩ | ⟨r, b, named, rfl⟩
    · simp
    · exact ⟨fun q hq => by simpa using readReg_writeReg_unnamed s _ named hq, by simp, rfl⟩

/-- A command that changes F is RESET, WRITE_FLAG or an EXEC of ADD. -/
theorem runCommand_flags_ne {c : Command} {s t : State} (h : runCommand c s = .next t) (hne : t.flags ≠ s.flags) :
    c = .reset ∨ (∃ q b, c = .writeFlag q b) ∨ ∃ w ops, c = .exec w ∧ decode w = .instr (.add ops) := by
  rcases runCommand_cases h with ⟨_, _, _, _, rfl⟩ | ⟨_, _, _, _, _, _, _, rfl⟩ | ⟨w, ops, _, _, hc, hd, _, _⟩ |
    ⟨_, _, _, rfl⟩ | ⟨p, b, hc, _⟩ | ⟨hc, _⟩
  · simp at hne
  · simp at hne
  · exact .inr (.inr ⟨w, ops, hc, hd⟩)
  · simp at hne
  · exact .inr (.inl ⟨p, b, hc⟩)
  · exact .inl hc

/-- Settles O36: an idle edge leaves F alone, and of the commands only its three writers change it. -/
theorem flagsChangeOnlyByAddWriteFlagOrReset : Obligations.FlagsChangeOnlyByAddWriteFlagOrReset := by
  intro p s t h hne
  rcases clockEdge_cases h with ⟨hr, _⟩ | ⟨_, hv, hc⟩ | ⟨_, _, rfl⟩
  · exact .inl hr
  · exact .inr ⟨hv, runCommand_flags_ne hc hne⟩
  · exact absurd s.idleEdge_flags hne

/-- A command that changes x[r] is RESET, WRITE_REG of r, or an EXEC of a LOAD or ADD into r. -/
theorem runCommand_readReg_ne {c : Command} {r : RegId} {s t : State} (h : runCommand c s = .next t)
    (hne : t.readReg r ≠ s.readReg r) :
    c = .reset ∨ (∃ v, c = .writeReg r v) ∨
      ∃ w ops, c = .exec w ∧ (decode w = .instr (.load ops) ∨ decode w = .instr (.add ops)) ∧
        ops[0]? = some (.reg r) := by
  rcases runCommand_cases h with ⟨_, _, _, _, rfl⟩ | ⟨w, ops, q, v, hc, hd, named, rfl⟩ |
    ⟨w, ops, q, b, hc, hd, named, rfl⟩ | ⟨q, v, hc, rfl⟩ | ⟨_, _, _, rfl⟩ | ⟨hc, _⟩
  · simp at hne
  · obtain rfl : r = q := State.eq_of_readReg_writeReg_ne (by simpa using hne)
    exact .inr (.inr ⟨w, ops, hc, .inl hd, named⟩)
  · obtain rfl : r = q := State.eq_of_readReg_writeReg_ne (by simpa using hne)
    exact .inr (.inr ⟨w, ops, hc, .inr hd, named⟩)
  · obtain rfl : r = q := State.eq_of_readReg_writeReg_ne (by simpa using hne)
    exact .inr (.inl ⟨v, hc⟩)
  · simp at hne
  · exact .inl hc

/-- Settles O37: an idle edge leaves x[r] alone, and of the commands only its writers change it. -/
theorem registerChangesOnlyByItsWriters : Obligations.RegisterChangesOnlyByItsWriters := by
  intro p r s t h hne
  rcases clockEdge_cases h with ⟨hr, _⟩ | ⟨_, hv, hc⟩ | ⟨_, _, rfl⟩
  · exact .inl hr
  · exact .inr ⟨hv, runCommand_readReg_ne hc hne⟩
  · exact absurd (s.readReg_idleEdge r) hne

end Sys2Proof.Machine
end

section
/-! PROOFS. ADD does not look at the flags before it (R26). -/

namespace Sys2Proof.Machine

/-- Two states show the same result of an ADD: equal registers and responses and, where the response is OK, equal C
and Z. -/
def SameAddResult (t t' : State) : Prop :=
  t.regA = t'.regA ∧ t.regB = t'.regB ∧ t.rspStatus = t'.rspStatus ∧ t.rspPos = t'.rspPos ∧
    (t.rspStatus = 0b00#2 → ∀ p, t.flag p = t'.flag p)

section

variable {s s' : State} (ha : s.regA = s'.regA) (hb : s.regB = s'.regB)
include ha hb

/-- The same error in two states with equal registers: it is not OK, so the flags are not compared. -/
theorem sameAddResult_error (e : InstrError) : SameAddResult (s.respond e.response) (s'.respond e.response) :=
  ⟨ha, hb, rfl, rfl, fun ok => absurd ok e.status_response_ne_ok⟩

/-- The same addition in two states with equal registers: C and Z are the ALU's, whatever they were. -/
theorem sameAddResult_addInto (r : RegId) {b b' : Byte} (hbb : b = b') :
    SameAddResult ((s.addInto r b).respond .ok) ((s'.addInto r b').respond .ok) := by
  subst hbb
  have same_dest : s.readReg r = s'.readReg r := State.readReg_ext ha hb r
  have same_regs (q : RegId) : (s.addInto r b).readReg q = (s'.addInto r b).readReg q := by
    by_cases hq : q = r
    · subst hq
      simp [State.readReg_writeReg_same, same_dest]
    · simp [State.readReg_writeReg_other, hq, State.readReg_ext ha hb q]
  have same_flags (p : FlagPos) : (s.addInto r b).flag p = (s'.addInto r b).flag p := by
    cases p <;> simp [same_dest]
  exact ⟨same_regs .a, same_regs .b, rfl, rfl, fun _ => same_flags⟩

end

/-- Settles O11: the operand list alone decides between an error and an addition, and the second operand is an immediate
or a register, equal in both states. -/
theorem addIgnoresEarlierFlags : Obligations.AddIgnoresEarlierFlags := by
  intro ops s s' t t' ha hb h h'
  match ops, h, h' with
  | [], rfl, rfl => exact sameAddResult_error ha hb (.missing .first)
  | .byte _ :: _, rfl, rfl => exact sameAddResult_error ha hb (.mismatched .first)
  | [.reg _], rfl, rfl => exact sameAddResult_error ha hb (.missing .second)
  | .reg r :: .byte _ :: _, rfl, rfl => exact sameAddResult_addInto ha hb r rfl
  | .reg r :: .reg q :: _, rfl, rfl => exact sameAddResult_addInto ha hb r (State.readReg_ext ha hb q)

end Sys2Proof.Machine
end

section
/-! PROOFS. A word and its three bytes (R41, R60). -/

namespace Sys2Proof

/-- "A decoder always takes exactly 24 bits" (R60): the first three bytes are one word, and the others are left. -/
theorem decodeBytes_cons_three (b2 b1 b0 : Byte) (rest : List Byte) :
    decodeBytes (b2 :: b1 :: b0 :: rest) = some (decode (wordOfBytes b2 b1 b0), rest) := rfl

end Sys2Proof

namespace Sys2Proof.Machine

/-- Settles O26: the bytes of a word are the three that decoding takes, and joined again they are the word. -/
theorem bytesSpellTheWord : Obligations.BytesSpellTheWord := by
  intro w rest
  calc decodeBytes (bytesOfWord w ++ rest)
      = some (decode (wordOfBytes (w.extractLsb' 16 8) (w.extractLsb' 8 8) (w.extractLsb' 0 8)), rest) :=
        decodeBytes_cons_three _ _ _ rest
    _ = some (decode w, rest) := by rw [wordOfBytes_extract]

end Sys2Proof.Machine
end

section
/-! SUPPORT. The decoder in one equivalence: a word decodes to an instruction exactly when OP is the instruction's, RES is 0
and the remaining fields spell its operand list. -/

namespace Sys2Proof

/-- The fields that spell an operand list decode to it. -/
theorem decodeOperands_of_spellsOperands {w : InstrWord} {ops : List Operand} (h : SpellsOperands w ops) :
    decodeOperands (suppliedFields w) = some ops := by
  match ops, h with
  | [], hn => rw [suppliedFields_zero hn, decodeOperands_nil]
  | [o], ⟨hn, hk, hv⟩ => simp [suppliedFields_one hn, decodeOperands, hk, hv]
  | [o, q], ⟨hn, ⟨hk1, hv1⟩, hk2, hv2⟩ => simp [suppliedFields_two hn, decodeOperands, hk1, hv1, hk2, hv2]

/-- A list that some word spells has at most two operands (R62). -/
theorem SpellsOperands.length_le {w : InstrWord} {ops : List Operand} (h : SpellsOperands w ops) : ops.length ≤ 2 := by
  match ops, h with
  | [], _ => simp
  | [_], _ => simp
  | [_, _], _ => simp

/-- The reserved count 0b11 spells no list (R62). -/
theorem SpellsOperands.count_ne_three {w : InstrWord} {ops : List Operand} (h : SpellsOperands w ops) :
    countField w ≠ 3#2 := by
  match ops, h with
  | [], hn => simp [show countField w = 0#2 from hn]
  | [_], ⟨hn, _⟩ => simp [hn]
  | [_, _], ⟨hn, _⟩ => simp [hn]

/-- An instruction is well-formed exactly when it has at most two operands. -/
theorem Instr.wf_iff {i : Instr} : i.wf = true ↔ i.operands.length ≤ 2 := by
  simp [Instr.wf, operandCountOk]

/-- The OP field of an instruction selects the instruction's constructor (R61). -/
theorem instrOfOp?_op (i : Instr) : ∃ mk, instrOfOp? i.op = some mk ∧ mk i.operands = i := by
  cases i <;> exact ⟨_, rfl, rfl⟩

/-- Which words decode to an instruction. -/
theorem decode_eq_instr_iff {w : InstrWord} {i : Instr} :
    decode w = .instr i ↔ opField w = i.op ∧ resField w = 0#2 ∧ SpellsOperands w i.operands := by
  constructor
  · intro h
    obtain ⟨hop, -, hres, -⟩ := decode_eq_instr h
    exact ⟨hop, hres, spellsOperands_of_decode h⟩
  · rintro ⟨hop, hres, spelled⟩
    obtain ⟨mk, hmk, made⟩ := instrOfOp?_op i
    simp [decode, hop, hmk, spelled.count_ne_three, hres, decodeOperands_of_spellsOperands spelled, made]

/-- The word of an instruction with at most two operands spells them. -/
theorem spellsOperands_encode {i : Instr} (h : i.wf = true) : SpellsOperands (encode i) i.operands := by
  unfold encode
  generalize hops : i.operands = ops
  match ops, hops ▸ Instr.wf_iff.1 h with
  | [], _ => simp [SpellsOperands]
  | [o], _ => simp [SpellsOperands]
  | [o, q], _ => simp [SpellsOperands]

/-- The class of an encoded instruction, whichever instruction it is. -/
theorem encodedClass (i : Instr) : Laws.EncodedClass.Statement i := by
  cases i with
  | load ops => exact Laws.EncodedClass.load ops
  | add ops => exact Laws.EncodedClass.add ops

/-- Decoding depends on OP, N, RES and the fields of the supplied operands only (R67). -/
theorem decode_congr {w w' : InstrWord} (hop : opField w = opField w') (hn : countField w = countField w')
    (hres : resField w = resField w') (hsup : suppliedFields w = suppliedFields w') : decode w = decode w' := by
  simp only [decode, hop, hn, hres, hsup]

end Sys2Proof
end

section
/-! PROOFS. Decode and encode are inverse to each other, up to the fields that decode ignores. -/

namespace Sys2Proof.Machine

/-- Settles O21: the word of `i` has the OP of `i` and RES 0, and its other fields spell the operands of `i`. -/
theorem decodeOfEncode : Obligations.DecodeOfEncode := by
  intro i wf
  obtain ⟨hop, hres, -⟩ := encodedClass i
  exact decode_eq_instr_iff.2 ⟨hop, hres, spellsOperands_encode wf⟩

/-- Settles O22: one case for each operand count, with the fields that spell the operands put in place of the operands. -/
theorem encodeOfDecode : Obligations.EncodeOfDecode := by
  intro w i h
  obtain ⟨hop, -, spelled⟩ := decode_eq_instr_iff.1 h
  refine ⟨Instr.wf_iff.2 spelled.length_le, ?_⟩
  rw [encode, hop]
  generalize i.operands = ops at spelled
  match ops, spelled with
  | [], hn => simp [show countField w = 0#2 from hn, kindBit, valueBits]
  | [o], ⟨hn, hk, hv⟩ => simp [hn, hk, hv, kindBit, valueBits]
  | [o, q], ⟨hn, ⟨hk1, hv1⟩, hk2, hv2⟩ => simp [hn, hk1, hv1, hk2, hv2]

/-- Settles O24: with N = 0b00 no operand field is supplied, with N = 0b01 only those of position 1. -/
theorem absentOperandFieldsIgnored : Obligations.AbsentOperandFieldsIgnored := by
  refine ⟨fun op res k1 k2 k1' k2' v1 v2 v1' v2' => ⟨?none, ?one⟩, by decide, by decide⟩
  case none => exact decode_congr (by simp) (by simp) (by simp) (by simp [suppliedFields])
  case one => exact decode_congr (by simp) (by simp) (by simp) (by simp [suppliedFields])

/-- Settles O25: each of the five words by evaluation. -/
theorem sampleWordsDecode : Obligations.SampleWordsDecode :=
  ⟨by decide, by decide, by decide, by decide, by decide⟩

end Sys2Proof.Machine
end

section
/-! PROOFS. Which words are ILLEGAL, by the masks of R70. -/

namespace Sys2Proof

/-- Masked with the class mask of R70, a word is the class word of an OP exactly when it has that OP and RES is 0. -/
theorem word_class_eq_iff (w : InstrWord) (op : BitVec 2) :
    w &&& 0xC30000#24 = packWord op 0#2 0#1 0#1 0#2 0#8 0#8 ↔ opField w = op ∧ resField w = 0#2 := by
  rw [word_and_class_mask]
  constructor
  · intro h
    exact ⟨by simpa using congrArg opField h, by simpa using congrArg resField h⟩
  · rintro ⟨hop, hres⟩
    rw [hop, hres]

/-- The class of LOAD (R70). -/
theorem word_class_load_iff (w : InstrWord) :
    w &&& 0xC30000#24 = 0x000000#24 ↔ opField w = 0b00#2 ∧ resField w = 0#2 :=
  word_class_eq_iff w 0b00#2

/-- The class of ADD (R70). -/
theorem word_class_add_iff (w : InstrWord) :
    w &&& 0xC30000#24 = 0x400000#24 ↔ opField w = 0b01#2 ∧ resField w = 0#2 :=
  word_class_eq_iff w 0b01#2

/-- A word is of neither class exactly when OP is reserved or RES is not 0. -/
theorem word_class_other_iff (w : InstrWord) :
    (w &&& 0xC30000#24 ≠ 0x000000#24 ∧ w &&& 0xC30000#24 ≠ 0x400000#24) ↔
      opField w = 0b10#2 ∨ opField w = 0b11#2 ∨ resField w ≠ 0#2 := by
  rw [Ne, Ne, word_class_load_iff, word_class_add_iff]
  generalize opField w = op, resField w = res
  revert op res
  decide

end Sys2Proof

namespace Sys2Proof.Machine

/-- The words the decoder rejects are those ILLEGAL by the rows of R69. -/
theorem decode_illegal_iff {w : InstrWord} : (∃ why, decode w = .illegal why) ↔ illegalWord w = true := by
  constructor
  · rintro ⟨why, h⟩
    exact illegalWord_of_decode_illegal h
  · intro h
    cases hd : decode w with
    | illegal why => exact ⟨why, rfl⟩
    | instr i => simp [illegalWord_of_decode_instr hd] at h

/-- The reserved register codes are those above 0x01 (R66). -/
theorem reservedRegisterField_iff {k : BitVec 1} {v : Byte} :
    reservedRegisterField k v = true ↔ k = 0#1 ∧ 0x01#8 < v := by
  have above_one : v ≠ 0x00#8 ∧ v ≠ 0x01#8 ↔ 0x01#8 < v := by bv_omega
  simp [reservedRegisterField, ← above_one]

/-- The rows of R69, the first two by the class masks. -/
theorem illegalWord_iff (w : InstrWord) : illegalWord w = true ↔
    (w &&& 0xC30000#24 ≠ 0x000000#24 ∧ w &&& 0xC30000#24 ≠ 0x400000#24) ∨ countField w = 0b11#2 ∨
      (countField w ≠ 0b00#2 ∧ kind1Field w = 0#1 ∧ 0x01#8 < value1Field w) ∨
      (countField w = 0b10#2 ∧ kind2Field w = 0#1 ∧ 0x01#8 < value2Field w) := by
  rw [word_class_other_iff]
  simp only [illegalWord, Bool.or_eq_true, Bool.and_eq_true, beq_iff_eq, bne_iff_ne, reservedRegisterField_iff]
  tauto

/-- Settles O23: the rejected words by the rows of R69, the class of the others by OP and RES. -/
theorem opcodeMap : Obligations.OpcodeMap := by
  refine fun w => ⟨decode_illegal_iff.trans (illegalWord_iff w), fun ops h => ?load, fun ops h => ?add⟩
  case load =>
    obtain ⟨hop, hres, -⟩ := decode_eq_instr_iff.1 h
    exact (word_class_load_iff w).2 ⟨hop, hres⟩
  case add =>
    obtain ⟨hop, hres, -⟩ := decode_eq_instr_iff.1 h
    exact (word_class_add_iff w).2 ⟨hop, hres⟩

end Sys2Proof.Machine
end

section
/-! SUPPORT. The assembly text: trimming and splitting what the printer writes, and reading it back (R72, log entry 10). -/

namespace Sys2Proof.Machine

/-! ### Trimming -/

/-- A text that neither begins nor ends with a blank is trimmed already. -/
theorem trimBlanks_eq_self {cs : List Char} (hfirst : cs.head? ≠ some ' ') (hlast : cs.getLast? ≠ some ' ') :
    trimBlanks cs = cs := by
  have drop_none : ∀ ds : List Char, ds.head? ≠ some ' ' → ds.dropWhile (· == ' ') = ds := by
    intro ds h
    cases ds with
    | nil => rfl
    | cons d ds => exact List.dropWhile_cons_of_neg (by simpa using h)
  rw [trimBlanks, drop_none cs hfirst, drop_none cs.reverse (by rwa [List.head?_reverse]), List.reverse_reverse]

/-- A text without blanks neither begins nor ends with one. -/
theorem ends_ne_blank {cs : List Char} (h : ' ' ∉ cs) : cs.head? ≠ some ' ' ∧ cs.getLast? ≠ some ' ' :=
  ⟨fun hf => h (List.mem_of_mem_head? hf), fun hl => h (List.mem_of_getLast? hl)⟩

/-- A text without blanks is trimmed already. -/
theorem trimBlanks_of_no_blank {cs : List Char} (h : ' ' ∉ cs) : trimBlanks cs = cs :=
  trimBlanks_eq_self (ends_ne_blank h).1 (ends_ne_blank h).2

/-- A blank in front does not matter. -/
theorem trimBlanks_blank_cons (cs : List Char) : trimBlanks (' ' :: cs) = trimBlanks cs := rfl

/-! ### Splitting at commas -/

/-- A character other than the comma joins the first piece. -/
theorem splitCommas_cons_of_ne {c : Char} {cs p : List Char} {ps : List (List Char)} (hc : c ≠ ',')
    (h : splitCommas cs = p :: ps) : splitCommas (c :: cs) = (c :: p) :: ps := by
  rw [splitCommas, if_neg hc, h]

/-- There is always a first piece. -/
theorem splitCommas_eq_cons (cs : List Char) : ∃ p ps, splitCommas cs = p :: ps := by
  induction cs with
  | nil => exact ⟨_, _, rfl⟩
  | cons c cs ih =>
    obtain ⟨p, ps, h⟩ := ih
    by_cases hc : c = ','
    · exact ⟨[], splitCommas cs, by rw [splitCommas, if_pos hc]⟩
    · exact ⟨_, _, splitCommas_cons_of_ne hc h⟩

/-- A text without a comma is one piece. -/
theorem splitCommas_of_no_comma {cs : List Char} (h : ',' ∉ cs) : splitCommas cs = [cs] := by
  induction cs with
  | nil => rfl
  | cons c cs ih =>
    obtain ⟨hc, hcs⟩ := List.ne_and_not_mem_of_not_mem_cons h
    exact splitCommas_cons_of_ne hc.symm (ih hcs)

/-- A text without a comma is the first piece of a text that goes on with one. -/
theorem splitCommas_append_comma {cs : List Char} (rest : List Char) (h : ',' ∉ cs) :
    splitCommas (cs ++ ',' :: rest) = cs :: splitCommas rest := by
  induction cs with
  | nil => simp [splitCommas]
  | cons c cs ih =>
    obtain ⟨hc, hcs⟩ := List.ne_and_not_mem_of_not_mem_cons h
    exact splitCommas_cons_of_ne hc.symm (ih hcs)

/-! ### Operands -/

theorem digitValue?_hexDigit : ∀ n < 16, digitValue? 16 (hexDigit n) = some n := by decide

theorem hexDigit_ne_blank_comma : ∀ n < 16, hexDigit n ≠ ' ' ∧ hexDigit n ≠ ',' := by decide

/-- Two hexadecimal digits spell a byte. -/
theorem readNumber_hexDigits (v : Byte) :
    readNumber ['0', 'x', hexDigit (v.toNat / 16), hexDigit (v.toNat % 16)] = some v := by
  have := v.isLt
  have high := digitValue?_hexDigit (v.toNat / 16) (by omega)
  have low := digitValue?_hexDigit (v.toNat % 16) (by omega)
  have value : v.toNat / 16 * 16 + v.toNat % 16 = v.toNat := by omega
  have in_range : v.toNat ≤ 255 := by omega
  simp [readNumber, readDigits, high, low, value, in_range]

/-- The printer puts no blank and no comma inside an operand. -/
theorem printOperand_no_blank_comma (o : Operand) : ' ' ∉ printOperand o ∧ ',' ∉ printOperand o := by
  match o with
  | .reg .a => decide
  | .reg .b => decide
  | .byte v =>
    have := v.isLt
    obtain ⟨hb, hc⟩ := hexDigit_ne_blank_comma (v.toNat / 16) (by omega)
    obtain ⟨lb, lc⟩ := hexDigit_ne_blank_comma (v.toNat % 16) (by omega)
    simp [printOperand, hb.symm, hc.symm, lb.symm, lc.symm]

theorem printOperand_ne_nil (o : Operand) : printOperand o ≠ [] := by
  match o with
  | .reg .a => nofun
  | .reg .b => nofun
  | .byte _ => nofun

/-- A printed operand reads as itself. -/
theorem readOperand_printOperand (o : Operand) : readOperand (printOperand o) = some o := by
  rw [readOperand, trimBlanks_of_no_blank (printOperand_no_blank_comma o).1]
  match o with
  | .reg .a => rfl
  | .reg .b => rfl
  | .byte v => exact congrArg (Option.map Operand.byte) (readNumber_hexDigits v)

/-! ### Operand lists -/

/-- A blank before an operand does not matter. -/
theorem readOperand_blank_cons (cs : List Char) : readOperand (' ' :: cs) = readOperand cs := rfl

/-- A blank before a list of operands does not matter. -/
theorem readOperands_splitCommas_blank_cons (cs : List Char) :
    readOperands (splitCommas (' ' :: cs)) = readOperands (splitCommas cs) := by
  obtain ⟨p, ps, h⟩ := splitCommas_eq_cons cs
  rw [splitCommas_cons_of_ne (by decide) h, h, readOperands, readOperands, readOperand_blank_cons]

/-- A printed list of operands reads as itself. -/
theorem readOperands_printOperands {ops : List Operand} (h : ops ≠ []) :
    readOperands (splitCommas (printOperands ops)) = some ops := by
  induction ops with
  | nil => exact absurd rfl h
  | cons o os ih =>
    have no_comma := (printOperand_no_blank_comma o).2
    cases os with
    | nil => simp [printOperands, splitCommas_of_no_comma no_comma, readOperands, readOperand_printOperand]
    | cons q os =>
      have rest := (readOperands_splitCommas_blank_cons _).trans (ih (List.cons_ne_nil q os))
      simp [printOperands, splitCommas_append_comma _ no_comma, readOperands, readOperand_printOperand, rest]

/-- The text of a list of operands ends with the text of its tail. -/
theorem printOperands_cons_cons (o q : Operand) (os : List Operand) :
    printOperands (o :: q :: os) = (printOperand o ++ [',', ' ']) ++ printOperands (q :: os) := by
  simp [printOperands]

/-- The text of an operand list is not empty, and no blank begins or ends it. -/
theorem printOperands_ends {ops : List Operand} (h : ops ≠ []) :
    printOperands ops ≠ [] ∧ (printOperands ops).head? ≠ some ' ' ∧ (printOperands ops).getLast? ≠ some ' ' := by
  induction ops with
  | nil => exact absurd rfl h
  | cons o os ih =>
    have nonempty := printOperand_ne_nil o
    have operand_ends := ends_ne_blank (printOperand_no_blank_comma o).1
    cases os with
    | nil => exact ⟨nonempty, operand_ends⟩
    | cons q os =>
      obtain ⟨rest_nonempty, -, last_ne⟩ := ih (List.cons_ne_nil q os)
      refine ⟨by simp [printOperands_cons_cons], ?_, ?_⟩
      · rw [printOperands_cons_cons, List.append_assoc, List.head?_append_of_ne_nil _ nonempty]
        exact operand_ends.1
      · rwa [printOperands_cons_cons, List.getLast?_append_of_ne_nil _ rest_nonempty]

/-! ### Lines -/

/-- A printed line with operands, its mnemonic `c :: cs`, is trimmed already. -/
theorem trimBlanks_line {c : Char} (cs : List Char) {ops : List Operand} (hc : c ≠ ' ') (h : ops ≠ []) :
    trimBlanks (c :: cs ++ ' ' :: printOperands ops) = c :: cs ++ ' ' :: printOperands ops := by
  obtain ⟨nonempty, -, last_ne⟩ := printOperands_ends h
  refine trimBlanks_eq_self (by simpa using hc) ?_
  rwa [List.append_cons, List.getLast?_append_of_ne_nil _ nonempty]

/-- What follows the mnemonic is read as the operands. -/
theorem trimBlanks_blank_printOperands {ops : List Operand} (h : ops ≠ []) :
    trimBlanks (' ' :: printOperands ops) = printOperands ops := by
  obtain ⟨-, head_ne, last_ne⟩ := printOperands_ends h
  rw [trimBlanks_blank_cons, trimBlanks_eq_self head_ne last_ne]

/-- A printed instruction reads as itself. -/
theorem readInstr_printInstr {i : Instr} (wf : i.wf = true) : readInstr (printInstr i) = some i := by
  cases i with
  | load ops =>
    by_cases h : ops = []
    · subst h; rfl
    · have line : trimBlanks ('L' :: 'O' :: 'A' :: 'D' :: ' ' :: printOperands ops) = _ :=
        trimBlanks_line ['O', 'A', 'D'] (by decide) h
      have rest := trimBlanks_blank_printOperands h
      simp [readInstr, printInstr, Instr.operands, h, line, rest, printOperands_ends h, readOperands_printOperands h, wf]
  | add ops =>
    by_cases h : ops = []
    · subst h; rfl
    · have line : trimBlanks ('A' :: 'D' :: 'D' :: ' ' :: printOperands ops) = _ :=
        trimBlanks_line ['D', 'D'] (by decide) h
      have rest := trimBlanks_blank_printOperands h
      simp [readInstr, printInstr, Instr.operands, h, line, rest, printOperands_ends h, readOperands_printOperands h, wf]

/-- The assembler reads well-formed instructions only: more than two operands are refused (R72). -/
theorem wf_of_readInstr {text : List Char} {i : Instr} (h : readInstr text = some i) : i.wf = true := by
  obtain ⟨j, -, hj⟩ := Option.bind_eq_some_iff.1 h
  split at hj
  · next wf => cases hj; exact wf
  · cases hj

end Sys2Proof.Machine
end

section
/-! PROOFS. The assembler against the printer and against the decoder (R72). -/

namespace Sys2Proof.Machine

/-- Settles O27: the printed text reads as the instruction it was printed from. -/
theorem assembleOfPrint : Obligations.AssembleOfPrint := by
  intro i wf
  rw [assemble, readInstr_printInstr wf, Option.map_some]

/-- Settles O28: the word is that of the well-formed instruction read, so it decodes to that instruction (O21). -/
theorem assembledWordsAreLegal : Obligations.AssembledWordsAreLegal := by
  intro text w h
  obtain ⟨i, read, rfl⟩ := Option.map_eq_some_iff.1 h
  exact ⟨i, decodeOfEncode i (wf_of_readInstr read), rfl⟩

end Sys2Proof.Machine
end

section
/-! SUPPORT. The port and the commands: what each value of `cmd_op` presents, what a command answers, and that every
command and every edge is completed (R85, R86, R91). -/

namespace Sys2Proof.Machine

/-! ### The command a port input presents -/

/-- `cmd_op` has four values (R91). -/
theorem cmdOp_cases (op : BitVec 2) : op = 0b00#2 ∨ op = 0b01#2 ∨ op = 0b10#2 ∨ op = 0b11#2 := by
  revert op
  decide

section

variable {p : PortIn}

theorem command_of_exec (h : p.cmdOp = 0b00#2) : p.command = .exec p.instr := by
  simp [PortIn.command, h]

theorem command_of_writeReg (h : p.cmdOp = 0b01#2) : p.command = .writeReg (regOfBit p.wrRegId) p.wrData := by
  simp [PortIn.command, h]

theorem command_of_writeFlag (h : p.cmdOp = 0b10#2) : p.command = .writeFlag (flagOfBit p.wrFlagPos) p.wrFlagVal := by
  simp [PortIn.command, h]

theorem command_of_reset (h : p.cmdOp = 0b11#2) : p.command = .reset := by
  simp [PortIn.command, h]

end

/-! ### The edge and the word that run a command -/

/-- Without `rst` the presented command is accepted (R176). -/
theorem clockEdge_of_cmdValid {p : PortIn} (s : State) (hr : p.rst = false) (hv : p.cmdValid = true) :
    clockEdge p s = runCommand p.command s := by
  simp [clockEdge, hr, hv]

/-- Without `rst` and without a command nothing is run (R176). -/
theorem clockEdge_of_idle {p : PortIn} (s : State) (hr : p.rst = false) (hv : p.cmdValid = false) :
    clockEdge p s = .next s.idleEdge := by
  simp [clockEdge, hr, hv]

/-- EXEC of a word that decodes runs the decoded instruction (R85). -/
theorem runCommand_exec_of_instr {w : InstrWord} {i : Instr} (s : State) (h : decode w = .instr i) :
    runCommand (.exec w) s = exec i s := by
  simp [runCommand, execWord, h]

/-- EXEC of any other word answers ILLEGAL (R153). -/
theorem runCommand_exec_of_illegal {w : InstrWord} {why : IllegalEncoding} (s : State) (h : decode w = .illegal why) :
    runCommand (.exec w) s = .next (s.respond .illegal) := by
  simp [runCommand, execWord, h, raiseIllegal]

/-! ### Every command and every edge is completed -/

/-- Every command answers a next state. -/
theorem runCommand_completes (c : Command) (s : State) : ∃ t, runCommand c s = .next t :=
  (runCommand_realizes c s).imp fun _ h => h.1

/-- Every edge answers a next state. -/
theorem clockEdge_completes (p : PortIn) (s : State) : ∃ t, clockEdge p s = .next t :=
  (clockEdge_realizes p s).imp fun _ h => h.1

/-! ### Responses -/

/-- A registered response is the only one the response register holds: the six codes differ (R87). -/
@[simp] theorem answersWith_respond {s : State} {x y : Response} : AnswersWith (s.respond x) y ↔ x = y := by
  constructor
  · rintro ⟨-, hstatus, hpos⟩
    have shown : some y = some x := by
      simpa [← responseOfCode?_status_pos] using congrArg₂ responseOfCode? hstatus.symm hpos.symm
    exact (Option.some.inj shown).symm
  · rintro rfl
    exact ⟨rfl, rfl, rfl⟩

/-- Only the error Mismatched(2) is reported as Mismatched(2) (R104). -/
theorem InstrError.eq_of_response_eq_mismatched {e : InstrError} {p : Pos} (h : e.response = .mismatched p) :
    e = .mismatched p := by
  cases e with
  | missing q => cases h
  | mismatched q => cases h; rfl

/-- Whatever a command does to registers and flags, it ends by registering a response (R87). -/
theorem exists_respond_of_runCommand {c : Command} {s t : State} (h : runCommand c s = .next t) :
    ∃ (u : State) (x : Response), t = u.respond x := by
  rcases runCommand_cases h with ⟨_, _, _, _, ht⟩ | ⟨_, _, _, _, _, _, _, ht⟩ | ⟨_, _, _, _, _, _, _, ht⟩ |
    ⟨_, _, _, ht⟩ | ⟨_, _, _, ht⟩ | ⟨_, ht⟩
  all_goals exact ⟨_, _, ht⟩

/-- The three host writes answer OK (R87). -/
theorem answersOk_of_hostWrite {c : Command} {s t : State} (host : ∀ w, c ≠ .exec w) (h : runCommand c s = .next t) :
    AnswersWith t .ok := by
  cases c with
  | exec w => exact absurd rfl (host w)
  | writeReg r v => cases h; exact answersWith_respond.2 rfl
  | writeFlag p b => cases h; exact answersWith_respond.2 rfl
  | reset => cases h; exact answersWith_respond.2 rfl

/-- The six pairs (rsp_status, rsp_pos) of R87. -/
def sixCodes : List (BitVec 2 × BitVec 2) :=
  [(0b00#2, 0b00#2), (0b01#2, 0b01#2), (0b01#2, 0b10#2), (0b10#2, 0b01#2), (0b10#2, 0b10#2), (0b11#2, 0b00#2)]

theorem code_mem_sixCodes (x : Response) : (x.status, x.pos) ∈ sixCodes := by
  match x with
  | .ok => decide
  | .missing .first => decide
  | .missing .second => decide
  | .mismatched .first => decide
  | .mismatched .second => decide
  | .illegal => decide

end Sys2Proof.Machine
end

section
/-! PROOFS. What the host commands write, and what they answer (R82, R83, R87, R88). -/

namespace Sys2Proof.Machine

/-- Settles O19: every command ends in a registered response, and each of the six responses has its pair. -/
theorem responseCodes : Obligations.ResponseCodes := by
  refine ⟨rfl, fun c s => ?_⟩
  obtain ⟨t, ht⟩ := runCommand_completes c s
  obtain ⟨u, x, rfl⟩ := exists_respond_of_runCommand ht
  exact ⟨_, ht, rfl, code_mem_sixCodes x, fun host => (answersOk_of_hostWrite host ht).2⟩

/-- A command that answers Mismatched(2) is an EXEC of a LOAD: ADD takes a register as its second operand. -/
theorem exec_load_of_answersMismatched {c : Command} {s t : State} (h : runCommand c s = .next t)
    (answer : AnswersWith t (.mismatched .second)) : ∃ w ops, c = .exec w ∧ decode w = .instr (.load ops) := by
  cases c with
  | writeReg r v => cases h; simp at answer
  | writeFlag p b => cases h; simp at answer
  | reset => cases h; simp at answer
  | exec w =>
    match hd : decode w with
    | .illegal why =>
      cases (runCommand_exec_of_illegal s hd).symm.trans h
      simp at answer
    | .instr (.load ops) => exact ⟨w, ops, rfl, hd⟩
    | .instr (.add ops) =>
      rw [runCommand_exec_of_instr s hd] at h
      rcases execAdd_cases ops s with ⟨e, he, hadd⟩ | ⟨r, b, -, -, hadd⟩ <;> cases hadd.symm.trans h
      · exact absurd (InstrError.eq_of_response_eq_mismatched (answersWith_respond.1 answer)) he
      · simp at answer

/-- Settles O20: the four messages by evaluation, and the command that answers Mismatched(2) by its decoded word. -/
theorem messagesRecoveredFromCodes : Obligations.MessagesRecoveredFromCodes :=
  ⟨rfl, rfl, rfl, rfl, fun _ _ _ => exec_load_of_answersMismatched⟩

/-- Settles O29: WRITE_REG is `writeReg` and the response OK. -/
theorem writeRegWritesOneRegister : Obligations.WriteRegWritesOneRegister := by
  refine fun r v s => ⟨(s.writeReg r v).respond .ok, rfl, ?written, fun q hq => ?other, s.writeReg_flags r v,
    answersWith_respond.2 rfl⟩
  case written => simpa using s.readReg_writeReg_same r v
  case other => simpa using s.readReg_writeReg_other v hq

/-- Settles O30: WRITE_FLAG is `setFlagBit` on F and the response OK. -/
theorem writeFlagWritesOneBit : Obligations.WriteFlagWritesOneBit := by
  refine fun p b s => ⟨(s.writeFlag p b).respond .ok, rfl, ?formula, ?written, fun q hq => ?other,
    upperFlags_setFlagBit s.flags p b, rfl, rfl, answersWith_respond.2 rfl, _, rfl, ?again⟩
  case formula => cases p <;> rfl
  case written => simp [State.flag, getFlagBit_setFlagBit]
  case other => simp [State.flag, getFlagBit_setFlagBit, hq]
  case again => exact setFlagBit_setFlagBit s.flags p b b

end Sys2Proof.Machine
end

section
/-! PROOFS. The port: what its outputs show, and which inputs present which command (R80, R81, R91, R171). -/

namespace Sys2Proof.Machine

/-- Settles O31: the outputs are the registers and F themselves, and a flag is the bit of F at its number. -/
theorem outputsShowRegistersAndFlags : Obligations.OutputsShowRegistersAndFlags :=
  fun _ => ⟨rfl, rfl, rfl, rfl, rfl⟩

/-- Settles O32: one clause for each command, and for each value of its one-bit name. -/
theorem portPresentsCommands : Obligations.PortPresentsCommands := by
  refine fun p => ⟨command_of_exec, fun h hr => ?_, fun h hr => ?_, fun h hf => ?_, fun h hf => ?_, command_of_reset⟩
  · rw [command_of_writeReg h, hr]; rfl
  · rw [command_of_writeReg h, hr]; rfl
  · rw [command_of_writeFlag h, hf]; rfl
  · rw [command_of_writeFlag h, hf]; rfl

/-- Settles O33: for each command, and each register or flag it names, the driven inputs are read back. -/
theorem drivenCommandsArePresented : Obligations.DrivenCommandsArePresented := by
  intro c
  match c with
  | .exec _ => exact ⟨rfl, rfl, rfl⟩
  | .writeReg .a _ => exact ⟨rfl, rfl, rfl⟩
  | .writeReg .b _ => exact ⟨rfl, rfl, rfl⟩
  | .writeFlag .carry _ => exact ⟨rfl, rfl, rfl⟩
  | .writeFlag .zero _ => exact ⟨rfl, rfl, rfl⟩
  | .reset => exact ⟨rfl, rfl, rfl⟩

/-- Inputs that agree on `cmd_op` and on what that command uses present the same command (R91). -/
theorem command_congr {p q : PortIn} (op : p.cmdOp = q.cmdOp) (exec : p.cmdOp = 0b00#2 → p.instr = q.instr)
    (writeReg : p.cmdOp = 0b01#2 → p.wrRegId = q.wrRegId ∧ p.wrData = q.wrData)
    (writeFlag : p.cmdOp = 0b10#2 → p.wrFlagPos = q.wrFlagPos ∧ p.wrFlagVal = q.wrFlagVal) :
    p.command = q.command := by
  rcases cmdOp_cases p.cmdOp with h | h | h | h
  · rw [command_of_exec h, command_of_exec (op ▸ h), exec h]
  · obtain ⟨reg, data⟩ := writeReg h
    rw [command_of_writeReg h, command_of_writeReg (op ▸ h), reg, data]
  · obtain ⟨pos, val⟩ := writeFlag h
    rw [command_of_writeFlag h, command_of_writeFlag (op ▸ h), pos, val]
  · rw [command_of_reset h, command_of_reset (op ▸ h)]

/-- Settles O34: a reset edge, an edge with a command and an idle edge; only the second looks at the presented command. -/
theorem unusedInputsIgnored : Obligations.UnusedInputsIgnored := by
  intro p q s rst rest
  cases hr : p.rst with
  | true => rw [clockEdge_of_rst s hr, clockEdge_of_rst s (rst ▸ hr)]
  | false =>
    obtain ⟨valid, used⟩ := rest hr
    cases hv : p.cmdValid with
    | true =>
      obtain ⟨op, exec, writeReg, writeFlag⟩ := used hv
      rw [clockEdge_of_cmdValid s hr hv, clockEdge_of_cmdValid s (rst ▸ hr) (valid ▸ hv),
        command_congr op exec writeReg writeFlag]
    | false => rw [clockEdge_of_idle s hr hv, clockEdge_of_idle s (rst ▸ hr) (valid ▸ hv)]

end Sys2Proof.Machine
end

section
/-! PROOFS. Steps and runs: each is completed, and a step runs the decoded instruction (R85, R86, R90, R165). -/

namespace Sys2Proof.Machine

/-- Settles O15: an error and a success of LOAD and of ADD touch registers, F and the response register only. -/
theorem instructionsLeaveHostQueueAlone : Obligations.InstructionsLeaveHostQueueAlone := by
  intro i s
  cases i with
  | load ops =>
    rcases execLoad_cases ops s with ⟨e, he⟩ | ⟨r, v, -, -, he⟩
    · exact ⟨_, he, rfl, rfl⟩
    · exact ⟨_, he, s.writeReg_inputs r v, s.writeReg_freeCount r v⟩
  | add ops =>
    rcases execAdd_cases ops s with ⟨e, -, he⟩ | ⟨r, b, -, -, he⟩
    · exact ⟨_, he, rfl, rfl⟩
    · exact ⟨_, he, s.addInto_inputs r b, s.addInto_freeCount r b⟩

/-- Settles O39: a step is an edge, and every edge is completed. -/
theorem everyStepAnswersNext : Obligations.EveryStepAnswersNext :=
  fun s => clockEdge_completes s.nextInput s.takeInput

/-- Settles O40, by induction on the length of the run. -/
theorem everyRunIsSafe : Obligations.EveryRunIsSafe := by
  intro k
  induction k with
  | zero => exact fun s => ⟨s, rfl⟩
  | succ k ih =>
    intro s
    obtain ⟨t, stepped⟩ := everyStepAnswersNext s
    obtain ⟨u, hu⟩ := ih t
    exact ⟨u, (core_run_succ k stepped).trans hu⟩

/-- A step that takes an EXEC of a word off the queue runs the instruction the word decodes to (R85). -/
theorem step_of_exec {s : State} {p : PortIn} {ps : List PortIn} {i : Instr} (queue : s.inputs = p :: ps)
    (hr : p.rst = false) (hv : p.cmdValid = true) (hop : p.cmdOp = 0b00#2) (hd : decode p.instr = .instr i) :
    step s = exec i { s with inputs := ps } := by
  rw [step_cons queue, clockEdge_of_cmdValid _ hr hv, command_of_exec hop, runCommand_exec_of_instr _ hd]

/-- A number that fits in 24 bits is its own word. -/
theorem wordOfTable_24 {w : Nat} (h : w < 2 ^ 24) : wordOfTable 24 w = BitVec.ofNat 24 w := by
  rw [wordOfTable, Nat.mod_eq_of_lt h]

/-- Settles O38: the second clause is the first for the EXEC that `withFetchWord` puts at the head of the queue. -/
theorem stepRunsTheDecodedInstruction : Obligations.StepRunsTheDecodedInstruction := by
  refine ⟨fun s p ps i => step_of_exec, fun s w i hw hd => ?_⟩
  have hd' : decode (wordOfTable 24 w) = .instr i := by rwa [wordOfTable_24 hw]
  exact step_of_exec (s := s.withFetchWord 24 w) (s.presentExec_inputs _) rfl rfl rfl hd'

end Sys2Proof.Machine
end

section
/-! PROOFS. Dispatch: which operand positions an instruction inspects, and what `instruction_dispatch` enables and drives
(R106, R110). -/

namespace Sys2Proof.Machine

/-! ### Only positions 1 and 2 are inspected (R106) -/

section Positions

variable {ops ops' : List Operand} (first : ops[0]? = ops'[0]?) (second : ops[1]? = ops'[1]?)
include first

/-- The check of position 1 inspects position 1 only (R105). -/
theorem requireRegister1_congr : requireRegister1 ops = requireRegister1 ops' := by
  simp only [requireRegister1, operandAt_first, first]

include second

theorem execLoad_congr (s : State) : execLoad ops s = execLoad ops' s := by
  simp only [execLoad, requireRegister1_congr first, operandAt_second, second]

theorem execAdd_congr (s : State) : execAdd ops s = execAdd ops' s := by
  simp only [execAdd, requireRegister1_congr first, operandAt_second, second]

end Positions

/-- Settles O16: the longer list and its first two operands agree at positions 1 and 2. -/
theorem operandsBeyondSecondIgnored : Obligations.OperandsBeyondSecondIgnored :=
  fun _ _ _ s => ⟨execLoad_congr rfl rfl s, execAdd_congr rfl rfl s⟩

/-! ### The outputs of `instruction_dispatch` (R110) -/

section Dispatch

variable {w : InstrWord} {r : RegId}

/-- Both write enables are 0 for every response other than OK. -/
theorem instructionDispatch_enables_of_not_ok (m : Arch) (h : (instructionDispatch w m).response ≠ .ok) :
    (instructionDispatch w m).rfWe = false ∧ (instructionDispatch w m).flWe = false := by
  have not_ok : responseToWord w ≠ .ok := h
  simp [not_ok]

/-- The register of position 1 is the one written and the ALU's first input. -/
theorem instructionDispatch_dest {i : Instr} {o : Operand} (m : Arch) (h : decode w = .instr i)
    (hops : i.operands = [.reg r, o]) :
    (instructionDispatch w m).rfWa = r ∧ (instructionDispatch w m).aluA = m.read r := by
  obtain ⟨-, ⟨-, hv1⟩, -⟩ : SpellsOperands w [.reg r, o] := hops ▸ spellsOperands_of_decode h
  simp [hv1, valueBits]

/-- LOAD of a byte writes it and enables no flag write. -/
theorem instructionDispatch_load {v : Byte} (m : Arch) (h : decode w = .instr (.load [.reg r, .byte v])) :
    (instructionDispatch w m).response = .ok ∧ (instructionDispatch w m).rfWe = true ∧
      (instructionDispatch w m).rfWa = r ∧ (instructionDispatch w m).rfWd = v ∧
      (instructionDispatch w m).flWe = false := by
  obtain ⟨hop, -⟩ := decode_eq_instr h
  obtain ⟨-, -, -, hv2⟩ := spellsOperands_of_decode h
  have ok := responseToWord_load_reg_byte h
  obtain ⟨wa, -⟩ := instructionDispatch_dest m h rfl
  have wd : (instructionDispatch w m).rfWd = v := (instructionDispatch_rfWd_load w m hop).trans hv2
  exact ⟨ok, by simp [ok], wa, wd, by simp [hop, Instr.op]⟩

/-- ADD writes the ALU's sum of x[r] and its second input `b`, and both flags. -/
theorem instructionDispatch_add {o : Operand} {b : Byte} (m : Arch) (h : decode w = .instr (.add [.reg r, o]))
    (hb : (instructionDispatch w m).aluB = b) :
    (instructionDispatch w m).response = .ok ∧ (instructionDispatch w m).rfWe = true ∧
      (instructionDispatch w m).rfWa = r ∧ (instructionDispatch w m).rfWd = (alu (m.read r) b).sum8 ∧
      (instructionDispatch w m).flWe = true ∧ (instructionDispatch w m).flC = (alu (m.read r) b).c ∧
      (instructionDispatch w m).flZ = (alu (m.read r) b).z := by
  obtain ⟨hop, -⟩ := decode_eq_instr h
  have ok := responseToWord_add_reg h
  obtain ⟨wa, ha⟩ := instructionDispatch_dest m h rfl
  refine ⟨ok, by simp [ok], wa, ?sum, by simp [ok, hop, Instr.op], ?carry, ?zero⟩
  case sum => rw [instructionDispatch_rfWd_add w m hop, ha, hb]
  case carry => rw [instructionDispatch_flC, ha, hb]
  case zero => rw [instructionDispatch_flZ, ha, hb]

end Dispatch

/-- Settles O46: the second operand of an ADD is an immediate or a register, and is the ALU's second input in either case. -/
theorem dispatchEnablesOnlyOnOk : Obligations.DispatchEnablesOnlyOnOk := by
  refine fun w m => ⟨instructionDispatch_enables_of_not_ok m, fun r v => instructionDispatch_load m, fun r o h => ?add⟩
  case add =>
    obtain ⟨-, -, hk, hv⟩ := spellsOperands_of_decode h
    cases o with
    | byte v => exact instructionDispatch_add m h (instructionDispatch_aluB_byte w m hk hv)
    | reg q => exact instructionDispatch_add m h (instructionDispatch_aluB_reg w m hk hv)

end Sys2Proof.Machine
end

section
/-! PROOFS. LOAD: its encoding, its effect and its frame (R120), and the outcome of each of its operand lists (R121). -/

namespace Sys2Proof.Machine

/-! ### An instruction that raises an error -/

/-- An instruction whose outcome is `raise e` fails with the response of `e`: registers and F stay, and the message is read
off the response register (R88, R102). -/
theorem failsWith_of_raise {i : Instr} {s : State} {e : InstrError} {msg : String} (raised : exec i s = raise e s)
    (message : errorMessage? e.response.status e.response.pos = some msg) : FailsWith i s e.response msg :=
  ⟨s.respond e.response, raised, ⟨rfl, rfl, rfl⟩, answersWith_respond.2 rfl, message⟩

/-! ### A register, then a byte -/

/-- On the machine, `LOAD r, #v` does what the host command WRITE_REG of `r` and `v` does (R82, R120). -/
theorem exec_load_reg_byte (r : RegId) (v : Byte) (s : State) :
    exec (.load [.reg r, .byte v]) s = runCommand (.writeReg r v) s := rfl

/-- The effect and the frame of `LOAD r, #v`: those of WRITE_REG. -/
theorem load_writes_one_register (r : RegId) (v : Byte) (s : State) :
    ∃ t, exec (.load [.reg r, .byte v]) s = .next t ∧ t.readReg r = v ∧
      (∀ q, q ≠ r → t.readReg q = s.readReg q) ∧ t.flags = s.flags ∧ AnswersWith t .ok := by
  rw [exec_load_reg_byte]
  exact writeRegWritesOneRegister r v s

/-- The word of R120 is the one that `encode` gives. -/
theorem encode_load_reg_byte (r : RegId) (v : Byte) :
    encode (.load [.reg r, .byte v]) = packWord 0b00#2 0b10#2 0#1 1#1 0b00#2 r.code v := rfl

/-- Settles O4: the word is that of a well-formed instruction, so it decodes to it, and the instruction writes x[r] only. -/
theorem loadStoresImmediate : Obligations.LoadStoresImmediate := by
  refine fun r imm s => ⟨?encoding, load_writes_one_register r imm s⟩
  rw [← encode_load_reg_byte]
  exact decodeOfEncode _ rfl

/-! ### Every operand list -/

/-- Settles O5: the four kinds of bad list each raise their error, and a register and a byte are `LOAD r, #v`. -/
theorem loadValidatesOperands : Obligations.LoadValidatesOperands := by
  refine fun s => ⟨?noOperand, fun v rest => ?byteFirst, fun r => ?noSecond, fun r q => ?registerSecond,
    fun r v => load_writes_one_register r v s⟩
  case noOperand => exact failsWith_of_raise (e := .missing .first) rfl rfl
  case byteFirst => exact failsWith_of_raise (e := .mismatched .first) rfl rfl
  case noSecond => exact failsWith_of_raise (e := .missing .second) rfl rfl
  case registerSecond => exact failsWith_of_raise (e := .mismatched .second) rfl rfl

end Sys2Proof.Machine
end

section
/-! SUPPORT. The adder in exact numbers, and the two flag writes of an ADD (R131, R132, R133). -/

namespace Sys2Proof.Machine

/-! ### The 16-bit sum and the ALU -/

/-- 16 bits hold the sum of two bytes (R131). -/
theorem zext16_add_toNat (a b : Byte) : (zext16 a + zext16 b).toNat = a.toNat + b.toNat := by
  have := a.isLt
  have := b.isLt
  simp only [zext16, BitVec.toNat_add, BitVec.toNat_setWidth]
  omega

theorem alu_c_iff {a b : Byte} : (alu a b).c = true ↔ 256 ≤ a.toNat + b.toNat := by
  simp [alu_c_eq]

theorem alu_z_iff {a b : Byte} : (alu a b).z = true ↔ (a.toNat + b.toNat) % 256 = 0 := by
  simp [alu_z_eq, BitVec.toNat_eq, alu_sum8_toNat]

theorem alu_comm (a b : Byte) : alu a b = alu b a := by
  simp only [alu, BitVec.add_comm]

/-- The sum of two bytes is below 512, so bit 8 is set exactly when the sum does not fit in a byte. -/
theorem zext16_add_getLsbD_eight (a b : Byte) : (zext16 a + zext16 b).getLsbD 8 = (alu a b).c := by
  have := a.isLt
  have := b.isLt
  rw [BitVec.getLsbD, zext16_add_toNat, Nat.testBit_eq_decide_div_mod_eq, alu_c_eq]
  exact decide_eq_decide.2 (by omega)

/-- The sum of two bytes is below 512, so no bit above bit 8 is set. -/
theorem zext16_add_getLsbD_of_nine_le (a b : Byte) {i : Nat} (h : 9 ≤ i) : (zext16 a + zext16 b).getLsbD i = false := by
  have := a.isLt
  have := b.isLt
  have below : a.toNat + b.toNat < 2 ^ i :=
    calc a.toNat + b.toNat < 2 ^ 9 := by omega
      _ ≤ 2 ^ i := Nat.pow_le_pow_right (by decide) h
  rw [BitVec.getLsbD, zext16_add_toNat]
  exact Nat.testBit_lt_two_pow below

/-! ### Flags -/

theorem bitByte_eq_ite {b : Bool} {p : Prop} [Decidable p] (h : b = true ↔ p) :
    bitByte b = if p then 1#8 else 0#8 := by
  simp only [bitByte, h]

/-- The mask of R132 clears all of a flags value whose upper bits are 0. -/
theorem and_upperMask_eq_zero {f : Byte} (h : upperFlags f = 0#6) : f &&& 0xFC#8 = 0#8 := by
  revert f
  decide

namespace State

variable (s : State)

/-- Writing a flag and writing a register do not disturb each other. -/
theorem writeReg_writeFlag (p : FlagPos) (c : Bool) (r : RegId) (v : Byte) :
    (s.writeFlag p c).writeReg r v = (s.writeReg r v).writeFlag p c := by cases r <;> rfl

/-- Of two writes of one flag the later stands. -/
theorem writeFlag_writeFlag (p : FlagPos) (c d : Bool) : (s.writeFlag p c).writeFlag p d = s.writeFlag p d := by
  simp only [writeFlag, setFlagBit_setFlagBit]

/-- A write of Carry just before an addition leaves no trace: the addition overwrites it and does not read it. -/
theorem addInto_writeFlag_carry (c : Bool) (r : RegId) (b : Byte) :
    (s.writeFlag .carry c).addInto r b = s.addInto r b := by
  simp only [addInto, readReg_writeFlag, writeReg_writeFlag, writeFlag_writeFlag]

theorem readReg_addInto_same (r : RegId) (b : Byte) : (s.addInto r b).readReg r = (alu (s.readReg r) b).sum8 := by
  rw [readReg_addInto, readReg_writeReg_same]

theorem readReg_addInto_other {r q : RegId} (b : Byte) (h : q ≠ r) : (s.addInto r b).readReg q = s.readReg q := by
  rw [readReg_addInto, readReg_writeReg_other s _ h]

end State

/-! ### ADD with two operands -/

/-- In immediate mode the second summand is the immediate (R134). -/
theorem exec_add_reg_byte (r : RegId) (v : Byte) (s : State) :
    exec (.add [.reg r, .byte v]) s = .next ((s.addInto r v).respond .ok) := rfl

/-- In register-register mode the second summand is the source's old value (R135). -/
theorem exec_add_reg_reg (r q : RegId) (s : State) :
    exec (.add [.reg r, .reg q]) s = .next ((s.addInto r (s.readReg q)).respond .ok) := rfl

/-- The word of R134 is the one that `encode` gives. -/
theorem encode_add_reg_byte (r : RegId) (v : Byte) :
    encode (.add [.reg r, .byte v]) = packWord 0b01#2 0b10#2 0#1 1#1 0b00#2 r.code v := rfl

/-- The word of R135 is the one that `encode` gives. -/
theorem encode_add_reg_reg (r q : RegId) :
    encode (.add [.reg r, .reg q]) = packWord 0b01#2 0b10#2 0#1 0#1 0b00#2 r.code q.code := rfl

end Sys2Proof.Machine
end

section
/-! PROOFS. The laws of the 8-bit adder (R131, R133). -/

namespace Sys2Proof.Machine

/-- Settles O10: each law from the exact sum, in numbers. -/
theorem aluLaws : Obligations.AluLaws := by
  intro a b
  have := a.isLt
  have := b.isLt
  refine ⟨zext16_add_toNat a b, alu_sum8_toNat a b, alu_c_iff, (zext16_add_getLsbD_eight a b).symm,
    fun i => zext16_add_getLsbD_of_nine_le a b, ?zero, ?carryAndZero, ?zeroOnly, alu_comm a b⟩
  case zero => rw [alu_z_iff]; omega
  case carryAndZero => rw [alu_c_iff, alu_z_iff]; omega
  case zeroOnly =>
    rw [← Bool.not_eq_true, alu_c_iff, alu_z_iff, BitVec.toNat_eq, BitVec.toNat_eq, BitVec.toNat_ofNat]
    omega

end Sys2Proof.Machine
end

section
/-! PROOFS. ADD: its two encodings, its result and its frame (R134, R135), and the outcome of each of its operand lists
(R136). -/

namespace Sys2Proof.Machine

/-- The addition of `b` into `r`, answered OK, is the result of ADD in the numbers of R131. -/
theorem addResult_addInto (s : State) (r : RegId) (b : Byte) : AddResult s ((s.addInto r b).respond .ok) r b := by
  refine ⟨?sum, fun q hq => ?other, ?carry, ?zero, ?upper, answersWith_respond.2 rfl⟩
  case sum => rw [State.readReg_respond, State.readReg_addInto_same, alu_sum8_toNat]
  case other => rw [State.readReg_respond, State.readReg_addInto_other s b hq]
  case carry => exact (s.flag_addInto_carry r b).trans (alu_c_eq _ b)
  case zero =>
    rw [State.readReg_respond, State.readReg_addInto_same]
    exact s.flag_addInto_zero r b
  case upper => simp

/-- ADD of an immediate answers the result of ADD. -/
theorem add_byte_result (r : RegId) (v : Byte) (s : State) :
    ∃ t, exec (.add [.reg r, .byte v]) s = .next t ∧ AddResult s t r v :=
  ⟨_, exec_add_reg_byte r v s, addResult_addInto s r v⟩

/-- ADD of a register, the destination itself included, answers the result of ADD of its old value. -/
theorem add_reg_result (r q : RegId) (s : State) :
    ∃ t, exec (.add [.reg r, .reg q]) s = .next t ∧ AddResult s t r (s.readReg q) :=
  ⟨_, exec_add_reg_reg r q s, addResult_addInto s r (s.readReg q)⟩

/-- Settles O6: the word is that of a well-formed instruction, so it decodes to it. -/
theorem addImmediateResult : Obligations.AddImmediateResult := by
  refine fun r imm s => ⟨?encoding, add_byte_result r imm s⟩
  rw [← encode_add_reg_byte]
  exact decodeOfEncode _ rfl

/-- Settles O7: the word is that of a well-formed instruction, so it decodes to it. -/
theorem addRegisterResult : Obligations.AddRegisterResult := by
  refine fun r src s => ⟨?encoding, add_reg_result r src s⟩
  rw [← encode_add_reg_reg]
  exact decodeOfEncode _ rfl

/-- ADD accepts both kinds of operand at position 2, so no list of operands is answered Mismatched(2) (R136). -/
theorem not_answersMismatchedSecond_of_exec_add {ops : List Operand} {s t : State} (h : exec (.add ops) s = .next t) :
    ¬ AnswersWith t (.mismatched .second) := by
  intro answer
  rcases execAdd_cases ops s with ⟨e, he, hadd⟩ | ⟨r, b, -, -, hadd⟩ <;> cases hadd.symm.trans h
  · exact he (InstrError.eq_of_response_eq_mismatched (answersWith_respond.1 answer))
  · simp at answer

/-- Settles O8: the three kinds of bad list each raise their error, and the others are the two modes of ADD. -/
theorem addValidatesOperands : Obligations.AddValidatesOperands := by
  refine fun s => ⟨?noOperand, fun v rest => ?byteFirst, fun r => ?noSecond, fun r v => add_byte_result r v s,
    fun r q => add_reg_result r q s, fun ops t => not_answersMismatchedSecond_of_exec_add⟩
  case noOperand => exact failsWith_of_raise (e := .missing .first) rfl rfl
  case byteFirst => exact failsWith_of_raise (e := .mismatched .first) rfl rfl
  case noSecond => exact failsWith_of_raise (e := .missing .second) rfl rfl

end Sys2Proof.Machine
end

section
/-! PROOFS. The flags after an ADD, and two rewritings of ADD that change nothing observable (R132, R135, R137). -/

namespace Sys2Proof.Machine

/-- F after the addition of `b` into `r`, in the form of R132 with c and z in exact numbers. -/
theorem addInto_flags_formula (s : State) (r : RegId) (b : Byte) :
    (s.addInto r b).flags = (s.flags &&& 0xFC#8) |||
      ((if ((s.readReg r).toNat + b.toNat) % 256 = 0 then 1#8 else 0#8) <<< 1) |||
      (if (s.readReg r).toNat + b.toNat > 0xFF then 1#8 else 0#8) := by
  rw [State.addInto_flags, setFlagBit_carry_zero, bitByte_eq_ite alu_z_iff, bitByte_eq_ite alu_c_iff]
  rfl

/-- An ADD that is not answered OK leaves F as it was. -/
theorem flags_of_failed_add {ops : List Operand} {s t : State} (h : exec (.add ops) s = .next t)
    (failed : t.rspStatus ≠ 0b00#2) : t.flags = s.flags := by
  rcases exec_add_eq_next h with ⟨e, rfl⟩ | ⟨r, b, -, rfl⟩
  · exact s.respond_flags e.response
  · exact absurd rfl failed

/-- Settles O9: the formula for the second operand's value, and its first term gone where F[7:2] = 0. -/
theorem addOverwritesBothFlags : Obligations.AddOverwritesBothFlags := by
  intro r o s b sum c z
  have formula : ((s.addInto r b).respond .ok).flags = (s.flags &&& 0xFC#8) ||| (z <<< 1) ||| c :=
    addInto_flags_formula s r b
  have completes : exec (.add [.reg r, o]) s = .next ((s.addInto r b).respond .ok) := by
    cases o with
    | byte v => exact exec_add_reg_byte r v s
    | reg q => exact exec_add_reg_reg r q s
  refine ⟨⟨_, completes, formula, fun upper => ?_⟩, fun ops t => flags_of_failed_add⟩
  rw [formula, and_upperMask_eq_zero upper, BitVec.zero_or]

/-- Settles O12: the ALU is commutative, and each direction writes its own destination. -/
theorem addDirectionOnlyMovesTheResult : Obligations.AddDirectionOnlyMovesTheResult := by
  refine fun s => ⟨_, _, exec_add_reg_reg .a .b s, exec_add_reg_reg .b .a s, ?sum, ?flags, ?sourceB, ?sourceA⟩
  case sum =>
    calc (s.addInto .a s.regB).readReg .a
        = (alu s.regA s.regB).sum8 := s.readReg_addInto_same .a s.regB
      _ = (alu s.regB s.regA).sum8 := by rw [alu_comm]
      _ = (s.addInto .b s.regA).readReg .b := (s.readReg_addInto_same .b s.regA).symm
  case flags => simp [alu_comm s.regA s.regB]
  case sourceB => exact s.readReg_addInto_other (r := .a) (q := .b) s.regB (by decide)
  case sourceA => exact s.readReg_addInto_other (r := .b) (q := .a) s.regA (by decide)

/-- Settles O13: the historical version is the addition after a write of Carry, which the addition overwrites; reading the
source after that write gives the same value. -/
theorem historicalAddVersionsAgree : Obligations.HistoricalAddVersionsAgree := by
  intro r o s cleared b out carryFirst
  have overwritten : carryFirst = s.addInto r b := s.addInto_writeFlag_carry false r b
  rw [overwritten]
  cases o with
  | byte v => exact exec_add_reg_byte r v s
  | reg q =>
    have same_source : b = s.readReg q := s.readReg_writeFlag .carry false q
    rw [same_source]
    exact exec_add_reg_reg r q s

end Sys2Proof.Machine
end

section
/-! PROOFS. An error leaves the registers and F as they were (R152, R153). -/

namespace Sys2Proof.Machine

/-- Registering a response touches the response register only. -/
theorem sameCore_respond (s : State) (x : Response) : SameCore s (s.respond x) := ⟨rfl, rfl, rfl⟩

/-- A command that is not answered OK does nothing but register its response: every outcome that writes
registers or flags is answered OK. -/
theorem eq_respond_of_failed {c : Command} {s t : State} (h : runCommand c s = .next t)
    (failed : t.rspStatus ≠ 0b00#2) : ∃ x, t = s.respond x := by
  rcases runCommand_cases h with ⟨_, x, _, _, error⟩ | ⟨_, _, _, _, _, _, _, rfl⟩ | ⟨_, _, _, _, _, _, _, rfl⟩ |
    ⟨_, _, _, rfl⟩ | ⟨_, _, _, rfl⟩ | ⟨_, rfl⟩
  · exact ⟨x, error⟩
  all_goals exact absurd rfl failed

/-- Settles O17: the answer to a failed command is the state before it with a response registered. -/
theorem errorsChangeNoState : Obligations.ErrorsChangeNoState := by
  intro c s t h failed
  obtain ⟨x, rfl⟩ := eq_respond_of_failed h failed
  exact ⟨sameCore_respond s x, rfl⟩

/-- Settles O18: the answer is the state before the word with the response ILLEGAL registered. -/
theorem illegalWordsAnswerIllegal : Obligations.IllegalWordsAnswerIllegal :=
  fun _ _ s h => ⟨s.respond .illegal, runCommand_exec_of_illegal s h, sameCore_respond s .illegal, rfl, rfl, rfl⟩

end Sys2Proof.Machine
end

section
/-! PROOFS. Reset and the edges of the block: what a reset leaves, the edge without a command, and an ADD at the edge after
the LOAD of its source (R172, R173, R174, R176, R177). -/

namespace Sys2Proof.Machine

/-! ### Reset -/

/-- Where the registers and F are 0, every register reads 0 and both flags read false. -/
theorem ZeroCore.reads_zero {t : State} (h : ZeroCore t) : (∀ r, t.readReg r = 0x00#8) ∧ (∀ p, t.flag p = false) := by
  obtain ⟨regA, regB, flags⟩ := h
  refine ⟨fun r => ?register, fun p => ?flag⟩
  case register =>
    cases r with
    | a => exact regA
    | b => exact regB
  case flag => simp [State.flag, flags, getFlagBit]

/-- Settles O1: each of the three ways to reset leaves the registers and F at 0. -/
theorem resetMachineReadsZero : Obligations.ResetMachineReadsZero := by
  intro t reset
  apply ZeroCore.reads_zero
  rcases reset with rfl | ⟨p, s, hr, edge⟩ | ⟨s, command⟩
  · exact ⟨rfl, rfl, rfl⟩
  · cases (clockEdge_of_rst s hr).symm.trans edge
    exact zeroCore_clearCore s
  · cases command
    exact zeroCore_clearCore s

/-- Settles O3: the reset edge overwrites every field that is free at power-on. -/
theorem bootNeedsOneReset : Obligations.BootNeedsOneReset := by
  intro p ps hr
  have stepped : step (State.powerOn (p :: ps)) = .next { State.reset with inputs := ps } :=
    (step_cons rfl).trans (clockEdge_of_rst _ hr)
  exact ⟨_, stepped, rfl, inv_of_no_response upperFlags_zero rfl⟩

/-! ### One edge -/

/-- Settles O35: without `rst`, an edge is the idle edge or the presented command. -/
theorem edgeTakesAtMostTheOneCommand : Obligations.EdgeTakesAtMostTheOneCommand :=
  fun _ s hr => ⟨fun hv => ⟨s.idleEdge, clockEdge_of_idle s hr hv, ⟨rfl, rfl, rfl⟩, rfl⟩, clockEdge_of_cmdValid s hr⟩

/-! ### Two edges: an ADD right after a LOAD -/

/-- What a register reads after a write, the written one and the other. -/
theorem State.readReg_writeReg (s : State) (r q : RegId) (v : Byte) :
    (s.writeReg r v).readReg q = if q = r then v else s.readReg q := by
  split
  · next same => rw [same, s.readReg_writeReg_same]
  · next other => exact s.readReg_writeReg_other v other

/-- What the host will drive later is not what the registers hold. -/
theorem State.readReg_with_inputs (s : State) (ps : List PortIn) (r : RegId) :
    State.readReg { s with inputs := ps } r = s.readReg r :=
  State.readReg_ext rfl rfl r

/-- The result of ADD speaks of the registers and F before it, not of the host's queue. -/
theorem addResult_with_inputs {s t : State} {ps : List PortIn} {r : RegId} {b : Byte} :
    AddResult { s with inputs := ps } t r b ↔ AddResult s t r b := by
  simp only [AddResult, State.readReg_with_inputs]

/-- A step at which the host drives EXEC of an encoded instruction runs that instruction. -/
theorem step_of_driven_instr {s : State} {i : Instr} {ps : List PortIn} (wf : i.wf = true)
    (queue : s.inputs = (Command.exec (encode i)).drive :: ps) : step s = exec i { s with inputs := ps } :=
  step_of_exec queue rfl rfl rfl (decodeOfEncode i wf)

/-- A step at which the host drives `LOAD r, #v` writes `v` to x[r] only, and takes only that input off the queue. -/
theorem step_of_driven_load {s : State} {r : RegId} {v : Byte} {ps : List PortIn}
    (queue : s.inputs = (Command.exec (encode (.load [.reg r, .byte v]))).drive :: ps) :
    ∃ t, step s = .next t ∧ t.inputs = ps ∧ ∀ q, t.readReg q = if q = r then v else s.readReg q := by
  refine ⟨_, (step_of_driven_instr rfl queue).trans (exec_load_reg_byte r v _), ?queue, fun q => ?reads⟩
  case queue => exact State.writeReg_inputs _ r v
  case reads => rw [State.readReg_respond, State.readReg_writeReg, State.readReg_with_inputs]

/-- A step at which the host drives `ADD q, r` answers the result of ADD of x[r], and takes only that input off the queue. -/
theorem step_of_driven_add {s : State} {q r : RegId} {ps : List PortIn}
    (queue : s.inputs = (Command.exec (encode (.add [.reg q, .reg r]))).drive :: ps) :
    ∃ t, step s = .next t ∧ t.inputs = ps ∧ AddResult s t q (s.readReg r) := by
  refine ⟨_, (step_of_driven_instr rfl queue).trans (exec_add_reg_reg q r _), ?queue, ?result⟩
  case queue => exact State.addInto_inputs _ q _
  case result =>
    rw [State.readReg_with_inputs]
    exact addResult_with_inputs.1 (addResult_addInto _ q _)

/-- Settles O45: the ADD adds what its registers read after the LOAD, and the LOAD has written its source. -/
theorem addSeesTheLoadBeforeIt : Obligations.AddSeesTheLoadBeforeIt := by
  intro r q v ps s queue
  obtain ⟨u, loaded, queue_u, reads_u⟩ := step_of_driven_load queue
  have source : u.readReg r = v := by rw [reads_u, if_pos rfl]
  obtain ⟨t, added, queue_t, sum, others, -, -, -, answer⟩ := step_of_driven_add queue_u
  refine ⟨t, (core_run_succ 1 loaded).trans (core_run_succ 0 added), queue_t, ?sum, fun hq => ?source, answer⟩
  case sum => rw [sum, source, reads_u]
  case source => rw [others r hq.symm, source]

end Sys2Proof.Machine
end
